-- ==== Sys2Proof/Word.lean ====
section
/-! DEFINITION. The word types of the FCB: a wire byte, a 16-bit field, a 32-bit register (R5, R22). -/

namespace Sys2Proof

/-- One byte of the wire or of a buffer. -/
abbrev Byte := BitVec 8

/-- A 16-bit field: a fault field, a packed date, a checksum. -/
abbrev Half := BitVec 16

/-- A 32-bit register or command word (R22, R90). -/
abbrev Word := BitVec 32

end Sys2Proof
end

