-- ==== Sys2Proof/Syntax.lean ====
section
/-! DEFINITION. The commands of the FCB: one constructor per row of the opcode map (R98), with the operand fields of
the row's format (R91–R96, R102). -/

namespace Sys2Proof

/-- A command with its operand fields (R98). -/
inductive Instr where
  /-- NOP, R286. -/
  | nop
  /-- SRST, R287. -/
  | srst
  /-- CLRERR, R288. -/
  | clrerr
  /-- CKSUM t, l, R125. -/
  | cksum (t l : Byte)
  /-- ENCODE d, k, l, R126. -/
  | encode (d k l : Byte)
  /-- DEC_START, R128. -/
  | decStart
  /-- DEC_BYTE b, R131. -/
  | decByte (b : Byte)
  /-- DEC_EOS, R132. -/
  | decEos
  /-- RD_U8 n, R172. -/
  | rdU8 (n : Byte)
  /-- RD_U16BE n, R173. -/
  | rdU16be (n : Byte)
  /-- RD_U16LE n, R174. -/
  | rdU16le (n : Byte)
  /-- RD_S16BE n, R175. -/
  | rdS16be (n : Byte)
  /-- RD_S16LE n, R176. -/
  | rdS16le (n : Byte)
  /-- BSWAP16 v, R177. -/
  | bswap16 (v : Half)
  /-- RD_CELL i, R178. -/
  | rdCell (n : Byte)
  /-- FT_CELL_OV v, R201. -/
  | ftCellOv (v : Half)
  /-- FT_CELL_UV v, R202. -/
  | ftCellUv (v : Half)
  /-- FT_PACK_OV v, R203. -/
  | ftPackOv (v : Half)
  /-- FT_PACK_UV v, R204. -/
  | ftPackUv (v : Half)
  /-- FT_CHG_OT v, R205. -/
  | ftChgOt (v : Half)
  /-- FT_CHG_UT v, R206. -/
  | ftChgUt (v : Half)
  /-- FT_DSG_OT v, R207. -/
  | ftDsgOt (v : Half)
  /-- FT_DSG_UT v, R208. -/
  | ftDsgUt (v : Half)
  /-- FT_CHG_OC v, R209. -/
  | ftChgOc (v : Half)
  /-- FT_DSG_OC v, R210. -/
  | ftDsgOc (v : Half)
  /-- FT_SHORT v, R211. -/
  | ftShort (v : Half)
  /-- FT_IC_ERR v, R212. -/
  | ftIcErr (v : Half)
  /-- FT_MOS_LOCK v, R213. -/
  | ftMosLock (v : Half)
  /-- DATE v, R214. -/
  | date (v : Half)
  /-- TEMP_DK j, R215. -/
  | tempDk (n : Byte)
  /-- TEMP_DC j, R216. -/
  | tempDc (n : Byte)
  /-- K2DC v, R217. -/
  | k2dc (v : Half)
  /-- BAL_BIT c, R219. -/
  | balBit (n : Byte)
  /-- BAL_STR, R220. -/
  | balStr
  /-- MOS_PAY r, R221. -/
  | mosPay (b : Byte)
  /-- TG_WAIT, R253. -/
  | tgWait
  /-- TG_MARK, R255. -/
  | tgMark
  deriving DecidableEq, Repr

end Sys2Proof
end

