-- ==== Sys2Proof/WellFormed.lean ====
section
/-! DEFINITION. Which 32-bit words are command words: the opcode map of R98 as rows of a match and a mask, written out
from the spec's own table. An operand field has exactly the width of its type, so every term of Instr is well formed;
what can be ill formed is a word. -/

namespace Sys2Proof

/-- One row of the opcode map: a word belongs to it when its masked bits are the match (R98). -/
structure OpRow where
  matchBits : Word
  mask : Word
  deriving DecidableEq, Repr

/-- The word is of this row: its opcode and its reserved bits are the row's (R97, R98). -/
def OpRow.accepts (r : OpRow) (w : Word) : Bool := w &&& r.mask == r.matchBits

/-- The rows of the control commands, R286–R288. -/
def controlRows : List OpRow :=
  [ ⟨0x00000000#32, 0xFFFFFFFF#32⟩,
    ⟨0x01000000#32, 0xFFFFFFFF#32⟩,
    ⟨0x02000000#32, 0xFFFFFFFF#32⟩ ]

/-- The rows of the frame codec, R125–R132. -/
def codecRows : List OpRow :=
  [ ⟨0x10000000#32, 0xFFFF0000#32⟩,
    ⟨0x11000000#32, 0xFF000000#32⟩,
    ⟨0x12000000#32, 0xFFFFFFFF#32⟩,
    ⟨0x13000000#32, 0xFFFFFF00#32⟩,
    ⟨0x14000000#32, 0xFFFFFFFF#32⟩ ]

/-- The rows of the payload readers, R172–R178. -/
def readerRows : List OpRow :=
  [ ⟨0x20000000#32, 0xFFFFFF00#32⟩,
    ⟨0x21000000#32, 0xFFFFFF00#32⟩,
    ⟨0x22000000#32, 0xFFFFFF00#32⟩,
    ⟨0x23000000#32, 0xFFFFFF00#32⟩,
    ⟨0x24000000#32, 0xFFFFFF00#32⟩,
    ⟨0x25000000#32, 0xFFFF0000#32⟩,
    ⟨0x26000000#32, 0xFFFFFF00#32⟩ ]

/-- The rows of the fault tests, R201–R213. -/
def faultRows : List OpRow :=
  [ ⟨0x30000000#32, 0xFFFF0000#32⟩,
    ⟨0x31000000#32, 0xFFFF0000#32⟩,
    ⟨0x32000000#32, 0xFFFF0000#32⟩,
    ⟨0x33000000#32, 0xFFFF0000#32⟩,
    ⟨0x34000000#32, 0xFFFF0000#32⟩,
    ⟨0x35000000#32, 0xFFFF0000#32⟩,
    ⟨0x36000000#32, 0xFFFF0000#32⟩,
    ⟨0x37000000#32, 0xFFFF0000#32⟩,
    ⟨0x38000000#32, 0xFFFF0000#32⟩,
    ⟨0x39000000#32, 0xFFFF0000#32⟩,
    ⟨0x3A000000#32, 0xFFFF0000#32⟩,
    ⟨0x3B000000#32, 0xFFFF0000#32⟩,
    ⟨0x3C000000#32, 0xFFFF0000#32⟩ ]

/-- The rows of the status decode, R214–R221. -/
def statusRows : List OpRow :=
  [ ⟨0x40000000#32, 0xFFFF0000#32⟩,
    ⟨0x41000000#32, 0xFFFFFF00#32⟩,
    ⟨0x42000000#32, 0xFFFFFF00#32⟩,
    ⟨0x43000000#32, 0xFFFF0000#32⟩,
    ⟨0x44000000#32, 0xFFFFFF00#32⟩,
    ⟨0x45000000#32, 0xFFFFFFFF#32⟩,
    ⟨0x46000000#32, 0xFFFFFF00#32⟩ ]

/-- The rows of the timing guard, R253 and R255. -/
def timingRows : List OpRow :=
  [ ⟨0x50000000#32, 0xFFFFFFFF#32⟩,
    ⟨0x51000000#32, 0xFFFFFFFF#32⟩ ]

/-- The opcode map of R98: 37 rows. -/
def opcodeRows : List OpRow :=
  controlRows ++ codecRows ++ readerRows ++ faultRows ++ statusRows ++ timingRows

/-- The word is a command word: some row of the opcode map accepts it; every other word is ILLEGAL_COMMAND (R97, R99). -/
def wordWellFormed (w : Word) : Bool := opcodeRows.any (fun r => r.accepts w)

end Sys2Proof
end

