-- ==== Sys2Proof/Decode.lean ====
section
/-! DEFINITION. Decoding a command word (R97–R102), encoding a command (R91–R96, R103), and the pseudo-instructions
(R104). -/

namespace Sys2Proof

/-- Why a command word is no command (R97, R99): both raise ILLEGAL_COMMAND. -/
inductive DecodeError where
  /-- The opcode is not in the map of R98. -/
  | unknownOpcode (op : Byte)
  /-- A reserved bit of the opcode's format is not 0. -/
  | reservedBits (op : Byte)
  deriving DecidableEq, Repr

/-- A format with the command it builds from its operand fields (R91–R96). -/
inductive Format where
  /-- Format N, R91. -/
  | n (mk : Instr)
  /-- Formats B and O, R92 and R93: one 8-bit field in bits 7:0. -/
  | b (mk : Byte → Instr)
  /-- Format H, R94: one 16-bit field in bits 15:0. -/
  | h (mk : Half → Instr)
  /-- Format C, R95: two 8-bit fields, bits 15:8 and 7:0. -/
  | c (mk : Byte → Byte → Instr)
  /-- Format F, R96: three 8-bit fields, bits 23:16, 15:8 and 7:0. -/
  | f (mk : Byte → Byte → Byte → Instr)

/-- The format of an opcode, by its row of R98; none for the reserved opcodes of R99. -/
def opcodeMap (op : Byte) : Option Format :=
  match op.toNat with
  | 0x00 => some (.n .nop)
  | 0x01 => some (.n .srst)
  | 0x02 => some (.n .clrerr)
  | 0x10 => some (.c .cksum)
  | 0x11 => some (.f .encode)
  | 0x12 => some (.n .decStart)
  | 0x13 => some (.b .decByte)
  | 0x14 => some (.n .decEos)
  | 0x20 => some (.b .rdU8)
  | 0x21 => some (.b .rdU16be)
  | 0x22 => some (.b .rdU16le)
  | 0x23 => some (.b .rdS16be)
  | 0x24 => some (.b .rdS16le)
  | 0x25 => some (.h .bswap16)
  | 0x26 => some (.b .rdCell)
  | 0x30 => some (.h .ftCellOv)
  | 0x31 => some (.h .ftCellUv)
  | 0x32 => some (.h .ftPackOv)
  | 0x33 => some (.h .ftPackUv)
  | 0x34 => some (.h .ftChgOt)
  | 0x35 => some (.h .ftChgUt)
  | 0x36 => some (.h .ftDsgOt)
  | 0x37 => some (.h .ftDsgUt)
  | 0x38 => some (.h .ftChgOc)
  | 0x39 => some (.h .ftDsgOc)
  | 0x3A => some (.h .ftShort)
  | 0x3B => some (.h .ftIcErr)
  | 0x3C => some (.h .ftMosLock)
  | 0x40 => some (.h .date)
  | 0x41 => some (.b .tempDk)
  | 0x42 => some (.b .tempDc)
  | 0x43 => some (.h .k2dc)
  | 0x44 => some (.b .balBit)
  | 0x45 => some (.n .balStr)
  | 0x46 => some (.b .mosPay)
  | 0x50 => some (.n .tgWait)
  | 0x51 => some (.n .tgMark)
  | _ => none

/-- The opcode, bits 31:24 (R90). -/
def opcodeOf (w : Word) : Byte := w.extractLsb' 24 8

/-- The reserved bits of a word under a format, as a number that must be 0 (R91–R96). -/
def Format.reserved (w : Word) : Format → Nat
  | .n _ => (w.extractLsb' 0 24).toNat
  | .b _ => (w.extractLsb' 8 16).toNat
  | .h _ => (w.extractLsb' 16 8).toNat
  | .c _ => (w.extractLsb' 16 8).toNat
  | .f _ => 0

/-- The command a format reads from the operand fields of a word, each the unsigned value of its bits (R102). -/
def Format.fill (w : Word) : Format → Instr
  | .n mk => mk
  | .b mk => mk (w.extractLsb' 0 8)
  | .h mk => mk (w.extractLsb' 0 16)
  | .c mk => mk (w.extractLsb' 8 8) (w.extractLsb' 0 8)
  | .f mk => mk (w.extractLsb' 16 8) (w.extractLsb' 8 8) (w.extractLsb' 0 8)

/-- Decoding a command word, R97: total, and a word that is no command is rejected by name. -/
def decode (w : Word) : Except DecodeError Instr :=
  match opcodeMap (opcodeOf w) with
  | none => .error (.unknownOpcode (opcodeOf w))
  | some fmt => if fmt.reserved w = 0 then .ok (fmt.fill w) else .error (.reservedBits (opcodeOf w))

/-- A word of format N (R91). -/
def wordN (op : Byte) : Word := op ++ (0#24)

/-- A word of format B or O (R92, R93). -/
def wordB (op b : Byte) : Word := op ++ (0#16) ++ b

/-- A word of format H (R94). -/
def wordH (op : Byte) (v : Half) : Word := op ++ (0#8) ++ v

/-- A word of format C (R95). -/
def wordC (op t l : Byte) : Word := op ++ (0#8) ++ t ++ l

/-- A word of format F (R96). -/
def wordF (op d k l : Byte) : Word := op ++ d ++ k ++ l

/-- Assembling a command: its fields placed in the word of its format (R91–R96, R98, R103). -/
def encode : Instr → Word
  | .nop => wordN 0x00#8
  | .srst => wordN 0x01#8
  | .clrerr => wordN 0x02#8
  | .cksum t l => wordC 0x10#8 t l
  | .encode d k l => wordF 0x11#8 d k l
  | .decStart => wordN 0x12#8
  | .decByte b => wordB 0x13#8 b
  | .decEos => wordN 0x14#8
  | .rdU8 n => wordB 0x20#8 n
  | .rdU16be n => wordB 0x21#8 n
  | .rdU16le n => wordB 0x22#8 n
  | .rdS16be n => wordB 0x23#8 n
  | .rdS16le n => wordB 0x24#8 n
  | .bswap16 v => wordH 0x25#8 v
  | .rdCell n => wordB 0x26#8 n
  | .ftCellOv v => wordH 0x30#8 v
  | .ftCellUv v => wordH 0x31#8 v
  | .ftPackOv v => wordH 0x32#8 v
  | .ftPackUv v => wordH 0x33#8 v
  | .ftChgOt v => wordH 0x34#8 v
  | .ftChgUt v => wordH 0x35#8 v
  | .ftDsgOt v => wordH 0x36#8 v
  | .ftDsgUt v => wordH 0x37#8 v
  | .ftChgOc v => wordH 0x38#8 v
  | .ftDsgOc v => wordH 0x39#8 v
  | .ftShort v => wordH 0x3A#8 v
  | .ftIcErr v => wordH 0x3B#8 v
  | .ftMosLock v => wordH 0x3C#8 v
  | .date v => wordH 0x40#8 v
  | .tempDk n => wordB 0x41#8 n
  | .tempDc n => wordB 0x42#8 n
  | .k2dc v => wordH 0x43#8 v
  | .balBit n => wordB 0x44#8 n
  | .balStr => wordN 0x45#8
  | .mosPay b => wordB 0x46#8 b
  | .tgWait => wordN 0x50#8
  | .tgMark => wordN 0x51#8

/-- The command word whose first nbits bits are w, the bits above them 0. A command word has one order of bits and no
byte order (R90, R68). -/
def tableWord (nbits w : Nat) : Word := BitVec.ofNat 32 (w % 2 ^ nbits)

/-- What the decoder reads from a word numbered as the opcode table numbers it. -/
def decodeTableWord (nbits w : Nat) : Option Instr := (decode (tableWord nbits w)).toOption

/-- The mnemonic of a command (R98, R103). -/
def Instr.mnemonic : Instr → String
  | .nop => "NOP"
  | .srst => "SRST"
  | .clrerr => "CLRERR"
  | .cksum _ _ => "CKSUM"
  | .encode _ _ _ => "ENCODE"
  | .decStart => "DEC_START"
  | .decByte _ => "DEC_BYTE"
  | .decEos => "DEC_EOS"
  | .rdU8 _ => "RD_U8"
  | .rdU16be _ => "RD_U16BE"
  | .rdU16le _ => "RD_U16LE"
  | .rdS16be _ => "RD_S16BE"
  | .rdS16le _ => "RD_S16LE"
  | .bswap16 _ => "BSWAP16"
  | .rdCell _ => "RD_CELL"
  | .ftCellOv _ => "FT_CELL_OV"
  | .ftCellUv _ => "FT_CELL_UV"
  | .ftPackOv _ => "FT_PACK_OV"
  | .ftPackUv _ => "FT_PACK_UV"
  | .ftChgOt _ => "FT_CHG_OT"
  | .ftChgUt _ => "FT_CHG_UT"
  | .ftDsgOt _ => "FT_DSG_OT"
  | .ftDsgUt _ => "FT_DSG_UT"
  | .ftChgOc _ => "FT_CHG_OC"
  | .ftDsgOc _ => "FT_DSG_OC"
  | .ftShort _ => "FT_SHORT"
  | .ftIcErr _ => "FT_IC_ERR"
  | .ftMosLock _ => "FT_MOS_LOCK"
  | .date _ => "DATE"
  | .tempDk _ => "TEMP_DK"
  | .tempDc _ => "TEMP_DC"
  | .k2dc _ => "K2DC"
  | .balBit _ => "BAL_BIT"
  | .balStr => "BAL_STR"
  | .mosPay _ => "MOS_PAY"
  | .tgWait => "TG_WAIT"
  | .tgMark => "TG_MARK"

/-- The pseudo-instructions of R104, which have no encoding of their own. -/
inductive Pseudo where
  | reqStatus
  | reqCells
  | reqHardware
  | reqMosfet (r : Byte)
  | rdVoltage
  | rdCurrent
  | rdRemainCap
  | rdNominalCap
  | rdCycles
  | rdProdDate
  | rdBalLow
  | rdBalHigh
  | rdFault
  | rdVersion
  | rdSoc
  | rdMosfet
  | rdNcells
  | rdNntcs
  deriving DecidableEq, Repr

/-- The commands a pseudo-instruction stands for (R104), at the offsets of R179. -/
def Pseudo.expand : Pseudo → List Instr
  | .reqStatus => [.encode 0xA5#8 0x03#8 0#8]
  | .reqCells => [.encode 0xA5#8 0x04#8 0#8]
  | .reqHardware => [.encode 0xA5#8 0x05#8 0#8]
  | .reqMosfet r => [.mosPay r, .encode 0x5A#8 0xE1#8 2#8]
  | .rdVoltage => [.rdU16be 0#8]
  | .rdCurrent => [.rdS16be 2#8]
  | .rdRemainCap => [.rdU16be 4#8]
  | .rdNominalCap => [.rdU16be 6#8]
  | .rdCycles => [.rdU16be 8#8]
  | .rdProdDate => [.rdU16be 10#8]
  | .rdBalLow => [.rdU16be 12#8]
  | .rdBalHigh => [.rdU16be 14#8]
  | .rdFault => [.rdU16be 16#8]
  | .rdVersion => [.rdU8 18#8]
  | .rdSoc => [.rdU8 19#8]
  | .rdMosfet => [.rdU8 20#8]
  | .rdNcells => [.rdU8 21#8]
  | .rdNntcs => [.rdU8 22#8]

end Sys2Proof
end

