-- ==== Sys2Proof/Config.lean ====
section
/-! DEFINITION. The implementation parameters of R4: the four a model takes as configuration, and the fixed values. -/

namespace Sys2Proof

/-- WIRE_CKSUM_ORDER (R4, R121): which byte of the natural checksum goes first on the wire. -/
inductive CksumOrder where
  | hiFirst
  | loFirst
  deriving DecidableEq, Repr

/-- The parameters R4 leaves open. A state carries them as plain data that no step changes, so a statement about every
state is a statement about every configuration (DESIGN CHOICE, log 1: safe) that all clients of the bus share (DESIGN
CHOICE, log 21: unsafe for a bus of differently built instances). -/
structure Config where
  /-- WIRE_CKSUM_ORDER, R121. -/
  wireCksumOrder : CksumOrder
  /-- SENTINEL_COMPAT, R127. -/
  sentinelCompat : Bool
  /-- N_CLIENTS, at least 1, R295. -/
  nClients : Nat
  /-- BASE, the address of the register window on the host bus, R61. -/
  base : Nat
  deriving DecidableEq, Repr

/-- The defaults of R4. BASE and N_CLIENTS have none in the spec: 0 and 1 are a DESIGN CHOICE (log 2: unsafe for a
statement that starts at reset and rests on them). -/
def Config.default : Config :=
  { wireCksumOrder := .hiFirst, sentinelCompat := false, nClients := 1, base := 0 }

/-- START_BYTE, R4. -/
def Config.startByte : Byte := 0xDD#8
/-- STOP_BYTE, R4. -/
def Config.stopByte : Byte := 0x77#8
/-- DIR_READ, R4. -/
def Config.dirRead : Byte := 0xA5#8
/-- DIR_WRITE, R4. -/
def Config.dirWrite : Byte := 0x5A#8
/-- RC_OK, R4. -/
def Config.rcOk : Byte := 0x00#8
/-- RC_ERR, R4 (informative: R130 makes every nonzero returncode DEVICE_ERROR). -/
def Config.rcErr : Byte := 0x80#8
/-- CMD_STATUS, R4. -/
def Config.cmdStatus : Byte := 0x03#8
/-- CMD_CELLS, R4. -/
def Config.cmdCells : Byte := 0x04#8
/-- CMD_HARDWARE, R4. -/
def Config.cmdHardware : Byte := 0x05#8
/-- CMD_MOSFET, R4. -/
def Config.cmdMosfet : Byte := 0xE1#8
/-- REQ_MAX_LEN, R4. -/
def Config.reqMaxLen : Nat := 30
/-- RSP_MAX_LEN, R4. -/
def Config.rspMaxLen : Nat := 64
/-- MAX_CELLS, R4. -/
def Config.maxCells : Nat := 32
/-- MAX_NTCS, R4. -/
def Config.maxNtcs : Nat := 8
/-- TEMP_OFFSET in deci-kelvin, R4. -/
def Config.tempOffset : Word := 2731#32
/-- YEAR_BASE, R4. -/
def Config.yearBase : Word := 2000#32
/-- DELAY_RESET in ticks, R4. -/
def Config.delayReset : Word := 60#32

end Sys2Proof
end

