-- ==== Sys2Proof/Machine/State.lean ====
section
/-! DEFINITION. The state of a bus of FCB instances (R48, R292, R295), the reasons of a stop, and reset (R320). Plain data
throughout. -/

namespace Sys2Proof.Machine

/-- The error codes of R280, in their order; codes 13 to 15 are never produced (I4) and have no constructor. -/
inductive ErrCode where
  | ok
  | malformedLength
  | transportShort
  | badStart
  | oversizedLength
  | checksumMismatch
  | badStop
  | deviceError
  | missingDest
  | illegalCommand
  | badArgument
  | noFrame
  | extractRange
  deriving DecidableEq, Repr

/-- DSTATE, the phase of the frame decoder (R46); the values 5 to 7 never occur. -/
inductive DState where
  | idle
  | hdr
  | pay
  | tail
  | done
  deriving DecidableEq, Repr

/-- A bus error: the fault of a host's access that R63 refuses. It is recorded in State.busReply as a fault of the host
agent, the FCB's state is unchanged and the machine goes on (R291, "An error stops no agent"; DEDUCED, log 5). The split
into four names, and which one is reported where several hold, is a DESIGN CHOICE (log 6). All are raised by busRead and
busWrite, and safe: no FCB state depends on them. No step ends in one. -/
inductive Fault where
  /-- The offset is reserved (R61). Raised by busRead and busWrite; safe. -/
  | reservedOffset (off : Nat)
  /-- The width is not the one R62 gives for the offset. Raised by busRead and busWrite; safe. -/
  | wrongWidth (off n : Nat)
  /-- A register access that is not 4-aligned (R62). Raised by busRead and busWrite; safe. -/
  | misaligned (off : Nat)
  /-- A write to a read-only register or buffer (R63). Raised by busWrite; safe. -/
  | readOnly (off : Nat)
  deriving DecidableEq, Repr

/-- Why a step has no meaning in the model. -/
inductive Refusal where
  /-- A command that has no meaning yet: raised by exec's own arms only; safe. -/
  | notModelled (mnemonic : String)
  /-- A host access whose address lies outside the FCB's window: it acts on another device of the host bus, of which the
  spec says nothing. Raised by hostAccess; safe (log 7). -/
  | outsideWindow (addr : Nat)
  /-- The agenda names a client the bus does not have. Raised by asClient; safe (log 14). -/
  | noSuchClient (k : Nat)
  deriving DecidableEq, Repr

/-- One access of a host to the host bus: MemRead(addr, n) and MemWrite(addr, n, v) of R8, n in bytes. A write narrower
than 32 bits carries its value in the low bits of v (log 13). -/
inductive Access where
  | read (n addr : Nat)
  | write (n addr : Nat) (v : Word)
  deriving DecidableEq, Repr

/-- One step of an agent (R292, R320). -/
inductive Event where
  /-- One tick of the time base (R250). -/
  | tick
  /-- One access of the host of client k; client 0 is the instance State.fcb (R292, R295). -/
  | access (k : Nat) (a : Access)
  /-- The reset input is driven: true asserts it, false releases it (R320, log 8). -/
  | reset (asserted : Bool)
  deriving DecidableEq, Repr

/-- What the bus answered the host access that ran last: the model's own field, standing for what the host sees
(log 15). -/
inductive BusReply where
  /-- No host access has run yet. -/
  | idle
  /-- A 32-bit read answered this value. -/
  | word (v : Word)
  /-- An 8-bit read answered this value. -/
  | byte (b : Byte)
  /-- A write was accepted. -/
  | written
  /-- The access was refused with a bus error (R63, R291). -/
  | error (f : Fault)
  deriving DecidableEq, Repr

/-- The byte buffers of an instance as (window offset, byte) cells, offsets strictly rising and no byte 0: an unlisted
byte reads as 0, the reset value R37 to R40 give every buffer byte (log 10). -/
abbrev Memory := List Host.Cell

/-- One FCB instance: the record of R48, less NOW, which all instances share (R250, log 9). -/
structure Fcb where
  /-- CMD, R23. -/
  cmd : Word
  /-- STATUS.BUSY, R25. -/
  busy : Bool
  /-- STATUS.FRAME_OK, R26. -/
  frameOk : Bool
  /-- STATUS.TX_OK, R27. -/
  txOk : Bool
  /-- STATUS.CMD_DROPPED, R28. -/
  cmdDropped : Bool
  /-- STATUS.EXTRA_BYTES, R29. -/
  extraBytes : Bool
  /-- STATUS.CERR, R30. -/
  cerr : ErrCode
  /-- RESULT, R31. -/
  result : Word
  /-- CTRL.SHARED_TS, R32. -/
  sharedTs : Bool
  /-- CTRL.DEST_EN, R32. -/
  destEn : Bool
  /-- DELAY, R33. -/
  delay : Word
  /-- LAST, R35. -/
  last : Word
  /-- WAITREM, R41. -/
  waitrem : Word
  /-- TXPAY, TXFRAME, RXPAY and OUTSTR, R37 to R40. -/
  mem : Memory
  /-- TXLEN, R38. -/
  txlen : BitVec 6
  /-- RXHDR.HSTART, R42. -/
  hstart : Byte
  /-- RXHDR.HCMD, R42. -/
  hcmd : Byte
  /-- RXHDR.HRC, R42. -/
  hrc : Byte
  /-- RXHDR.HLEN, R42. -/
  hlen : Byte
  /-- RXTAIL.CK0, R43. -/
  ck0 : Byte
  /-- RXTAIL.CK1, R43. -/
  ck1 : Byte
  /-- RXTAIL.STOPB, R43. -/
  stopb : Byte
  /-- RXCK.CKRX, R44. -/
  ckrx : Half
  /-- RXCK.CKCALC, R44. -/
  ckcalc : Half
  /-- DSTAT.DCODE, R45. -/
  dcode : ErrCode
  /-- DSTAT.DSTATE, R46. -/
  dstate : DState
  /-- DSTAT.DPOS, R45. -/
  dpos : BitVec 7
  deriving DecidableEq, Repr

/-- An instance after reset: every element 0 but DELAY = 60 and DEST_EN = 1 (R320). -/
def Fcb.reset : Fcb where
  cmd := 0#32
  busy := false
  frameOk := false
  txOk := false
  cmdDropped := false
  extraBytes := false
  cerr := .ok
  result := 0#32
  sharedTs := false
  destEn := true
  delay := Config.delayReset
  last := 0#32
  waitrem := 0#32
  mem := []
  txlen := 0#6
  hstart := 0#8
  hcmd := 0#8
  hrc := 0#8
  hlen := 0#8
  ck0 := 0#8
  ck1 := 0#8
  stopb := 0#8
  ckrx := 0#16
  ckcalc := 0#16
  dcode := .ok
  dstate := .idle
  dpos := 0#7

/-- A bus: the instance whose commands exec runs, the other clients' instances, the platform's shared state, the
configuration, and the model's own fields for the agents' steps. -/
structure State where
  /-- The instance of client 0. -/
  fcb : Fcb
  /-- The instances of clients 1, 2, … (R295). -/
  peers : List Fcb
  /-- NOW, the one time base of the bus (R34, R250). -/
  now : Word
  /-- SHCELL, the shared timestamp cell (R36, R257). -/
  shcell : Word
  /-- The reset input is asserted (R320, log 8). -/
  resetLine : Bool
  /-- The configuration (R4, log 1), one for every instance of the bus. DESIGN CHOICE (log 21): whether the instances of
  one bus may differ in BASE, WIRE_CKSUM_ORDER and SENTINEL_COMPAT the spec does not say. -/
  cfg : Config
  /-- The agents' steps still to come, oldest first; when none is left the time base goes on ticking (R292, log 3). -/
  agenda : List Event
  /-- What the bus answered the last host access (log 15). -/
  busReply : BusReply
  deriving DecidableEq, Repr

/-- The bus after reset under a configuration: every instance, NOW and SHCELL as R320 to R322 say. -/
def State.resetWith (cfg : Config) : State where
  fcb := Fcb.reset
  peers := List.replicate (cfg.nClients - 1) Fcb.reset
  now := 0#32
  shcell := 0#32
  resetLine := false
  cfg := cfg
  agenda := []
  busReply := .idle

/-- The bus after reset under the default configuration of R4 (logs 2, 3, 15 and 17). -/
def State.reset : State := State.resetWith Config.default

end Sys2Proof.Machine
end

