-- ==== Sys2Proof/Machine/Ops.lean ====
section
/-! DEFINITION. The named operations over buffers and instances: reading and writing a byte, completing a command,
raising an error (R8, R281), and the step of another client. The FCB has no trap entry and no return (R291): raise is its
whole exception. -/

namespace Sys2Proof.Machine

/-- The byte at a window offset; an unlisted byte is 0 (R37–R40, R320). -/
def Memory.read (m : Memory) (a : Nat) : Byte :=
  match m with
  | [] => 0#8
  | (b, x) :: m => if a = b then x else Memory.read m a

/-- A byte stored at a window offset, the canonical form kept (log 10). -/
def Memory.write (m : Memory) (a : Nat) (v : Byte) : Memory :=
  match m with
  | [] => if v = 0#8 then [] else [(a, v)]
  | (b, x) :: m =>
    if a < b then (if v = 0#8 then (b, x) :: m else (a, v) :: (b, x) :: m)
    else if a = b then (if v = 0#8 then m else (a, v) :: m)
    else (b, x) :: Memory.write m a v

/-- Consecutive bytes stored from a window offset on. -/
def Memory.writeBytes (m : Memory) (a : Nat) : List Byte → Memory
  | [] => m
  | v :: vs => Memory.writeBytes (Memory.write m a v) (a + 1) vs

/-- The n bytes from a window offset on. -/
def Memory.readBytes (m : Memory) (a : Nat) : Nat → List Byte
  | 0 => []
  | n + 1 => Memory.read m a :: Memory.readBytes m (a + 1) n

/-- The canonical form from a lower bound on: offsets strictly rising, no byte 0. -/
def Memory.wfFrom (lo : Nat) : Memory → Bool
  | [] => true
  | (b, x) :: m => decide (lo ≤ b) && (x != 0#8) && Memory.wfFrom (b + 1) m

/-- The canonical form of the buffers' contents (log 10). -/
def Memory.wf (m : Memory) : Bool := Memory.wfFrom 0 m

/-- The window offset of TXPAY[0] (R61). -/
def txpayBase : Nat := 0x040
/-- The window offset of TXFRAME[0] (R61). -/
def txframeBase : Nat := 0x080
/-- The window offset of RXPAY[0] (R61). -/
def rxpayBase : Nat := 0x0C0
/-- The window offset of OUTSTR[0] (R61). -/
def outstrBase : Nat := 0x100

/-- TXPAY[i] (R37). -/
def Fcb.txpay (f : Fcb) (i : Nat) : Byte := f.mem.read (txpayBase + i)
/-- TXFRAME[i] (R38). -/
def Fcb.txframe (f : Fcb) (i : Nat) : Byte := f.mem.read (txframeBase + i)
/-- RXPAY[i] (R39). -/
def Fcb.rxpay (f : Fcb) (i : Nat) : Byte := f.mem.read (rxpayBase + i)
/-- OUTSTR[i] (R40). -/
def Fcb.outstr (f : Fcb) (i : Nat) : Byte := f.mem.read (outstrBase + i)

/-- complete(), R8: the command ends without error. -/
def Fcb.complete (f : Fcb) : Fcb := { f with cerr := .ok }

/-- raise E, R8 and R281: the command ends with error code E and writes nothing else. -/
def Fcb.raise (e : ErrCode) (f : Fcb) : Fcb := { f with cerr := e }

/-- RESULT <- v; complete(). -/
def Fcb.answer (v : Word) (f : Fcb) : Fcb := { f with result := v, cerr := .ok }

/-- The state with the instance of client 0 replaced. -/
def State.withFcb (s : State) (f : Fcb) : State := { s with fcb := f }

/-- A command that either answers a value in RESULT or raises an error (R31, R281). -/
def answer (r : Except ErrCode Word) (s : State) : Host.Outcome State Fault Refusal :=
  match r with
  | .ok v => .next (s.withFcb (s.fcb.answer v))
  | .error e => .next (s.withFcb (s.fcb.raise e))

/-- The bus seen from client k: its instance takes the place of State.fcb, and the instance of client 0 its place. Doing
it twice changes nothing. -/
def State.swapClient (k : Nat) (s : State) : State :=
  match k with
  | 0 => s
  | j + 1 =>
    match s.peers[j]? with
    | none => s
    | some p => { s with fcb := p, peers := s.peers.set j s.fcb }

/-- A step of client k: f run on the bus seen from that client (R295). -/
def asClient (k : Nat) (f : State → Host.Outcome State Fault Refusal) (s : State) : Host.Outcome State Fault Refusal :=
  if s.peers.length < k then .refused (.noSuchClient k)
  else
    match f (s.swapClient k) with
    | .next t => .next (t.swapClient k)
    | .fault e => .fault e
    | .refused e => .refused e

end Sys2Proof.Machine
end

