-- ==== Sys2Proof/Machine/Operands.lean ====
section
/-! DEFINITION. Operand assembly: byte order, extension and the two's-complement encoding (R7, R8), and the guarded read
of the received payload every reader goes through (R170). -/

namespace Sys2Proof.Machine

/-- be16(b0, b1), R8. -/
def be16 (b0 b1 : Byte) : Half := b0 ++ b1

/-- le16(b0, b1), R8. -/
def le16 (b0 b1 : Byte) : Half := b1 ++ b0

/-- zext_32, R7. -/
def zext32 {n : Nat} (v : BitVec n) : Word := v.setWidth 32

/-- sext_32 of a 16-bit value, R7. -/
def sext32 (v : Half) : Word := v.signExtend 32

/-- The two bytes of a 16-bit value exchanged, R177. -/
def bswap16 (v : Half) : Half := v.extractLsb' 0 8 ++ v.extractLsb' 8 8

/-- enc_32(dk − 2731), R216 and R217. -/
def deciCelsius (dk : Half) : Word := zext32 dk - Config.tempOffset

/-- rx_bytes(off, w), R170: a value computed from payload bytes off … off + w − 1, given only when the frame is good and
the bytes lie in its payload. -/
def rxBytes {α : Type} (off w : Nat) (f : Fcb) (v : α) : Except ErrCode α :=
  if f.frameOk = false then .error .noFrame
  else if f.hlen.toNat < off + w then .error .extractRange
  else .ok v

/-- The payload byte at an offset, R172. -/
def rxU8 (off : Nat) (f : Fcb) : Except ErrCode Byte := rxBytes off 1 f (f.rxpay off)

/-- The big-endian 16-bit payload field at an offset, R173. -/
def rxU16be (off : Nat) (f : Fcb) : Except ErrCode Half :=
  rxBytes off 2 f (be16 (f.rxpay off) (f.rxpay (off + 1)))

/-- The little-endian 16-bit payload field at an offset, R174. -/
def rxU16le (off : Nat) (f : Fcb) : Except ErrCode Half :=
  rxBytes off 2 f (le16 (f.rxpay off) (f.rxpay (off + 1)))

/-- A read value brought to the width of RESULT. -/
def widen {α : Type} (g : α → Word) : Except ErrCode α → Except ErrCode Word
  | .ok v => .ok (g v)
  | .error e => .error e

end Sys2Proof.Machine
end

