-- ==== Sys2Proof/Machine/Codec.lean ====
section
/-! DEFINITION. The frame codec (R120–R134): the checksum, the encoder and the streaming decoder. -/

namespace Sys2Proof.Machine

/-- ck16(t, l, p), R120: from 0, the type byte, the length byte and each payload byte subtracted modulo 2^16. -/
def ck16 (t l : Byte) (p : List Byte) : Half :=
  p.foldl (fun acc b => acc - b.setWidth 16) (0#16 - t.setWidth 16 - l.setWidth 16)

/-- wire_ck(v), R121. -/
def wireCk (o : CksumOrder) (v : Half) : Byte × Byte :=
  match o with
  | .hiFirst => (v.extractLsb' 8 8, v.extractLsb' 0 8)
  | .loFirst => (v.extractLsb' 0 8, v.extractLsb' 8 8)

/-- assemble(c0, c1), R121. -/
def assembleCk (o : CksumOrder) (c0 c1 : Byte) : Half :=
  match o with
  | .hiFirst => be16 c0 c1
  | .loFirst => le16 c0 c1

/-- The request payload TXPAY[0 .. l−1], R125 and R126. -/
def Fcb.requestPayload (f : Fcb) (l : Byte) : List Byte := f.mem.readBytes txpayBase l.toNat

/-- The checksum of the request payload, or MALFORMED_LENGTH: a length above 30, or under SENTINEL_COMPAT a value of 0
(R125–R127). -/
def requestCk (cfg : Config) (t l : Byte) (f : Fcb) : Except ErrCode Half :=
  if Config.reqMaxLen < l.toNat then .error .malformedLength
  else if cfg.sentinelCompat = true ∧ ck16 t l (f.requestPayload l) = 0#16 then .error .malformedLength
  else .ok (ck16 t l (f.requestPayload l))

/-- CKSUM t, l, R125. -/
def execCksum (t l : Byte) (s : State) : Host.Outcome State Fault Refusal :=
  match requestCk s.cfg t l s.fcb with
  | .ok v => .next (s.withFcb (s.fcb.answer (zext32 v)))
  | .error e => .next (s.withFcb ({ s.fcb with result := 0#32 }.raise e))

/-- The bytes of a request frame with checksum v, R122. -/
def requestFrame (o : CksumOrder) (d k l : Byte) (p : List Byte) (v : Half) : List Byte :=
  [Config.startByte, d, k, l] ++ p ++ [(wireCk o v).1, (wireCk o v).2, Config.stopByte]

/-- ENCODE d, k, l, R126. -/
def execEncode (d k l : Byte) (s : State) : Host.Outcome State Fault Refusal :=
  if d ≠ Config.dirRead ∧ d ≠ Config.dirWrite then
    .next (s.withFcb ({ s.fcb with txOk := false, txlen := 0#6 }.raise .badArgument))
  else
    match requestCk s.cfg k l s.fcb with
    | .error e => .next (s.withFcb ({ s.fcb with txOk := false, txlen := 0#6, result := 0#32 }.raise e))
    | .ok v =>
      .next (s.withFcb
        ({ s.fcb with
            mem := s.fcb.mem.writeBytes txframeBase
              (requestFrame s.cfg.wireCksumOrder d k l (s.fcb.requestPayload l) v),
            txlen := l.setWidth 6 + 7#6,
            txOk := true }.answer (zext32 v)))

/-- DEC_START, R128. -/
def execDecStart (s : State) : Host.Outcome State Fault Refusal :=
  .next (s.withFcb
    { s.fcb with
      dstate := .hdr, dpos := 0#7, dcode := .ok, frameOk := false,
      hstart := 0#8, hcmd := 0#8, hrc := 0#8, hlen := 0#8,
      ck0 := 0#8, ck1 := 0#8, stopb := 0#8, ckrx := 0#16, ckcalc := 0#16,
      cerr := .ok })

/-- finish(E), R134. -/
def Fcb.finish (e : ErrCode) (f : Fcb) : Fcb :=
  { f with dstate := .done, dcode := e, frameOk := if e = .ok then true else f.frameOk }

/-- hdr_check(), R129. -/
def Fcb.hdrCheck (f : Fcb) : Fcb :=
  if f.hstart ≠ Config.startByte then f.finish .badStart
  else if Config.rspMaxLen < f.hlen.toNat then f.finish .oversizedLength
  else if 0 < f.hlen.toNat ∧ f.destEn = false then f.finish .missingDest
  else if f.hlen.toNat = 0 then { f with dstate := .tail }
  else { f with dstate := .pay }

/-- The received payload RXPAY[0 .. HLEN−1], R130. -/
def Fcb.responsePayload (f : Fcb) : List Byte := f.mem.readBytes rxpayBase f.hlen.toNat

/-- The two checksums of a received frame recorded in RXCK, R130. -/
def Fcb.recordCk (o : CksumOrder) (f : Fcb) : Fcb :=
  { f with ckrx := assembleCk o f.ck0 f.ck1, ckcalc := ck16 f.hrc f.hlen f.responsePayload }

/-- The outcome of a frame whose trailer is complete, R130. -/
def Fcb.trailerOutcome (f : Fcb) : ErrCode :=
  if f.ckrx ≠ f.ckcalc then .checksumMismatch
  else if f.stopb ≠ Config.stopByte then .badStop
  else if f.hrc ≠ Config.rcOk then .deviceError
  else .ok

/-- tail_check(), R130. -/
def Fcb.tailCheck (o : CksumOrder) (f : Fcb) : Fcb :=
  let g := f.recordCk o
  g.finish g.trailerOutcome

/-- Header byte i of RXHDR <- b, R131; RXHDR has the bytes 0 to 3 only (log 12). -/
def Fcb.putHeader (i : Nat) (b : Byte) (f : Fcb) : Fcb :=
  match i with
  | 0 => { f with hstart := b }
  | 1 => { f with hcmd := b }
  | 2 => { f with hrc := b }
  | 3 => { f with hlen := b }
  | _ => f

/-- DPOS <- DPOS + 1, R131. -/
def Fcb.bumpPos (f : Fcb) : Fcb := { f with dpos := f.dpos + 1#7 }

/-- A byte in the header phase, R131. -/
def Fcb.takeHeader (b : Byte) (f : Fcb) : Fcb :=
  let g := (f.putHeader f.dpos.toNat b).bumpPos
  if g.dpos = 4#7 then g.hdrCheck else g

/-- A byte in the payload phase, R131. -/
def Fcb.takePayload (b : Byte) (f : Fcb) : Fcb :=
  let g := { f with mem := f.mem.write (rxpayBase + (f.dpos.toNat - 4)) b }.bumpPos
  if g.dpos.toNat = 4 + g.hlen.toNat then { g with dstate := .tail } else g

/-- A byte in the trailer phase, R131: trailer byte j lies at DPOS = 4 + HLEN + j. -/
def Fcb.takeTrailer (o : CksumOrder) (b : Byte) (f : Fcb) : Fcb :=
  if f.dpos.toNat = 4 + f.hlen.toNat then { f with ck0 := b }.bumpPos
  else if f.dpos.toNat = 5 + f.hlen.toNat then { f with ck1 := b }.bumpPos
  else if f.dpos.toNat = 6 + f.hlen.toNat then ({ f with stopb := b }.bumpPos).tailCheck o
  else f.bumpPos

/-- The decoder's next byte, R131. -/
def Fcb.takeByte (o : CksumOrder) (b : Byte) (f : Fcb) : Fcb :=
  match f.dstate with
  | .idle => { f with extraBytes := true }
  | .done => { f with extraBytes := true }
  | .hdr => f.takeHeader b
  | .pay => f.takePayload b
  | .tail => f.takeTrailer o b

/-- DEC_BYTE b, R131. -/
def execDecByte (b : Byte) (s : State) : Host.Outcome State Fault Refusal :=
  .next (s.withFcb (s.fcb.takeByte s.cfg.wireCksumOrder b).complete)

/-- DEC_EOS, R132. -/
def execDecEos (s : State) : Host.Outcome State Fault Refusal :=
  match s.fcb.dstate with
  | .idle => .next (s.withFcb s.fcb.complete)
  | .done => .next (s.withFcb s.fcb.complete)
  | .hdr => .next (s.withFcb (s.fcb.finish .transportShort).complete)
  | .pay => .next (s.withFcb (s.fcb.finish .transportShort).complete)
  | .tail => .next (s.withFcb (s.fcb.finish .transportShort).complete)

end Sys2Proof.Machine
end

