-- ==== Sys2Proof/Machine/Control.lean ====
section
/-! DEFINITION. The control commands NOP, SRST and CLRERR (R286–R288). -/

namespace Sys2Proof.Machine

/-- NOP, R286. -/
def execNop (s : State) : Host.Outcome State Fault Refusal := .next (s.withFcb s.fcb.complete)

/-- SRST, R287: every element of this instance at its reset value, CMD at the SRST word; NOW and SHCELL are kept. -/
def execSrst (s : State) : Host.Outcome State Fault Refusal :=
  .next (s.withFcb { Fcb.reset with cmd := 0x01000000#32 })

/-- CLRERR, R288. -/
def execClrerr (s : State) : Host.Outcome State Fault Refusal :=
  .next (s.withFcb { s.fcb with cmdDropped := false, extraBytes := false, cerr := .ok })

end Sys2Proof.Machine
end

