-- ==== Sys2Proof/Machine/Extract.lean ====
section
/-! DEFINITION. The payload readers (R170–R178). -/

namespace Sys2Proof.Machine

/-- RD_U8 n, R172. -/
def execRdU8 (n : Byte) (s : State) : Host.Outcome State Fault Refusal :=
  answer (widen zext32 (rxU8 n.toNat s.fcb)) s

/-- RD_U16BE n, R173. -/
def execRdU16be (n : Byte) (s : State) : Host.Outcome State Fault Refusal :=
  answer (widen zext32 (rxU16be n.toNat s.fcb)) s

/-- RD_U16LE n, R174. -/
def execRdU16le (n : Byte) (s : State) : Host.Outcome State Fault Refusal :=
  answer (widen zext32 (rxU16le n.toNat s.fcb)) s

/-- RD_S16BE n, R175. -/
def execRdS16be (n : Byte) (s : State) : Host.Outcome State Fault Refusal :=
  answer (widen sext32 (rxU16be n.toNat s.fcb)) s

/-- RD_S16LE n, R176. -/
def execRdS16le (n : Byte) (s : State) : Host.Outcome State Fault Refusal :=
  answer (widen sext32 (rxU16le n.toNat s.fcb)) s

/-- BSWAP16 v, R177. -/
def execBswap16 (v : Half) (s : State) : Host.Outcome State Fault Refusal :=
  answer (.ok (zext32 (bswap16 v))) s

/-- The voltage of cell i + 1, R178. -/
def rxCell (i : Nat) (f : Fcb) : Except ErrCode Half :=
  if Config.maxCells ≤ i then .error .badArgument else rxU16be (2 * i) f

/-- RD_CELL i, R178. -/
def execRdCell (n : Byte) (s : State) : Host.Outcome State Fault Refusal :=
  answer (widen zext32 (rxCell n.toNat s.fcb)) s

end Sys2Proof.Machine
end

