-- ==== Sys2Proof/Machine/StatusDecode.lean ====
section
/-! DEFINITION. The status decode helpers (R200–R221): fault bits, date, temperatures, balance bits and the mosfet
payload. -/

namespace Sys2Proof.Machine

/-- zext_32(v[j]), R201–R213. -/
def faultBit (j : Nat) (v : Half) : Word := zext32 (BitVec.ofBool (v.getLsbD j))

/-- FT_CELL_OV v, R201. -/
def execFtCellOv (v : Half) (s : State) : Host.Outcome State Fault Refusal := answer (.ok (faultBit 0 v)) s
/-- FT_CELL_UV v, R202. -/
def execFtCellUv (v : Half) (s : State) : Host.Outcome State Fault Refusal := answer (.ok (faultBit 1 v)) s
/-- FT_PACK_OV v, R203. -/
def execFtPackOv (v : Half) (s : State) : Host.Outcome State Fault Refusal := answer (.ok (faultBit 2 v)) s
/-- FT_PACK_UV v, R204. -/
def execFtPackUv (v : Half) (s : State) : Host.Outcome State Fault Refusal := answer (.ok (faultBit 3 v)) s
/-- FT_CHG_OT v, R205. -/
def execFtChgOt (v : Half) (s : State) : Host.Outcome State Fault Refusal := answer (.ok (faultBit 4 v)) s
/-- FT_CHG_UT v, R206. -/
def execFtChgUt (v : Half) (s : State) : Host.Outcome State Fault Refusal := answer (.ok (faultBit 5 v)) s
/-- FT_DSG_OT v, R207. -/
def execFtDsgOt (v : Half) (s : State) : Host.Outcome State Fault Refusal := answer (.ok (faultBit 6 v)) s
/-- FT_DSG_UT v, R208. -/
def execFtDsgUt (v : Half) (s : State) : Host.Outcome State Fault Refusal := answer (.ok (faultBit 7 v)) s
/-- FT_CHG_OC v, R209. -/
def execFtChgOc (v : Half) (s : State) : Host.Outcome State Fault Refusal := answer (.ok (faultBit 8 v)) s
/-- FT_DSG_OC v, R210. -/
def execFtDsgOc (v : Half) (s : State) : Host.Outcome State Fault Refusal := answer (.ok (faultBit 9 v)) s
/-- FT_SHORT v, R211. -/
def execFtShort (v : Half) (s : State) : Host.Outcome State Fault Refusal := answer (.ok (faultBit 10 v)) s
/-- FT_IC_ERR v, R212. -/
def execFtIcErr (v : Half) (s : State) : Host.Outcome State Fault Refusal := answer (.ok (faultBit 11 v)) s
/-- FT_MOS_LOCK v, R213. -/
def execFtMosLock (v : Half) (s : State) : Host.Outcome State Fault Refusal := answer (.ok (faultBit 12 v)) s

/-- year << 16 | month << 8 | day of a packed date, R214. -/
def packedDate (v : Half) : Word :=
  let year := zext32 (v >>> 9) + Config.yearBase
  let month := zext32 (v >>> 5) &&& 0xF#32
  let day := zext32 v &&& 0x1F#32
  (year <<< 16) ||| (month <<< 8) ||| day

/-- DATE v, R214. -/
def execDate (v : Half) (s : State) : Host.Outcome State Fault Refusal := answer (.ok (packedDate v)) s

/-- Temperature sensor j in deci-kelvin, R215: the checks in the rule's order. -/
def rxTemp (j : Nat) (f : Fcb) : Except ErrCode Half :=
  if Config.maxNtcs ≤ j then .error .badArgument
  else
    match rxU8 22 f with
    | .error e => .error e
    | .ok nt => if nt.toNat ≤ j then .error .extractRange else rxU16be (23 + 2 * j) f

/-- TEMP_DK j, R215. -/
def execTempDk (n : Byte) (s : State) : Host.Outcome State Fault Refusal :=
  answer (widen zext32 (rxTemp n.toNat s.fcb)) s

/-- TEMP_DC j, R216. -/
def execTempDc (n : Byte) (s : State) : Host.Outcome State Fault Refusal :=
  answer (widen deciCelsius (rxTemp n.toNat s.fcb)) s

/-- K2DC v, R217. -/
def execK2dc (v : Half) (s : State) : Host.Outcome State Fault Refusal := answer (.ok (deciCelsius v)) s

/-- bal32, R218: balanceHigh << 16 | balanceLow. -/
def Fcb.bal32 (f : Fcb) : Word := be16 (f.rxpay 14) (f.rxpay 15) ++ be16 (f.rxpay 12) (f.rxpay 13)

/-- Whether cell c is balancing, R219. -/
def rxBalance (c : Nat) (f : Fcb) : Except ErrCode Word :=
  if c < 1 ∨ Config.maxCells < c then .error .badArgument
  else rxBytes 12 4 f (zext32 (BitVec.ofBool (f.bal32.getLsbD (c - 1))))

/-- BAL_BIT c, R219. -/
def execBalBit (n : Byte) (s : State) : Host.Outcome State Fault Refusal := answer (rxBalance n.toNat s.fcb) s

/-- The number of characters of the balance string, R220: the cells byte capped to 32. -/
def Fcb.balCells (f : Fcb) : Nat := min (f.rxpay 21).toNat Config.maxCells

/-- The balance string with its terminator, R220. -/
def Fcb.balString (f : Fcb) : List Byte :=
  (List.range f.balCells).map (fun k => if f.bal32.getLsbD k then 0x31#8 else 0x30#8) ++ [0x00#8]

/-- BAL_STR, R220. -/
def execBalStr (s : State) : Host.Outcome State Fault Refusal :=
  match rxBytes 12 10 s.fcb s.fcb.balCells with
  | .error e => .next (s.withFcb (s.fcb.raise e))
  | .ok n =>
    .next (s.withFcb
      ({ s.fcb with mem := s.fcb.mem.writeBytes outstrBase s.fcb.balString }.answer (BitVec.ofNat 32 n)))

/-- The wire form of the requested mosfet flags, R221. -/
def mosfetWire (r : Byte) : Byte := ~~~r &&& 0x03#8

/-- MOS_PAY r, R221. -/
def execMosPay (b : Byte) (s : State) : Host.Outcome State Fault Refusal :=
  .next (s.withFcb
    ({ s.fcb with mem := s.fcb.mem.writeBytes txpayBase [0x00#8, mosfetWire b] }.answer (zext32 (mosfetWire b))))

end Sys2Proof.Machine
end

