-- ==== Sys2Proof/Machine/Timing.lean ====
section
/-! DEFINITION. The bus timing guard (R250–R255): the guard's timestamp, TG_WAIT, TG_MARK and the tick. -/

namespace Sys2Proof.Machine

/-- L, the guard's timestamp, R251. -/
def State.stamp (s : State) : Word := if s.fcb.sharedTs then s.shcell else s.fcb.last

/-- L <- v, R251. -/
def State.setStamp (v : Word) (s : State) : State :=
  if s.fcb.sharedTs then { s with shcell := v } else s.withFcb { s.fcb with last := v }

/-- elapsed, R252. -/
def State.elapsed (s : State) : Word := s.now - s.stamp

/-- TG_WAIT, R253: CERR is written when the wait ends. -/
def execTgWait (s : State) : Host.Outcome State Fault Refusal :=
  if s.elapsed.toNat < s.fcb.delay.toNat then
    .next (s.withFcb
      { s.fcb with waitrem := s.fcb.delay - s.elapsed, busy := true, result := s.fcb.delay - s.elapsed })
  else .next (s.withFcb ({ s.fcb with waitrem := 0#32 }.answer 0#32))

/-- TG_MARK, R255. -/
def execTgMark (s : State) : Host.Outcome State Fault Refusal :=
  let t := s.setStamp s.now
  .next (t.withFcb (t.fcb.answer s.now))

/-- wait_tick(), R254, run at a tick while BUSY = 1. -/
def Fcb.waitTick (f : Fcb) : Fcb :=
  let r := f.waitrem - 1#32
  if r = 0#32 then { f with waitrem := r, busy := false, cerr := .ok } else { f with waitrem := r }

/-- A tick as one instance sees it, R250. -/
def Fcb.tick (f : Fcb) : Fcb := if f.busy then f.waitTick else f

/-- tick(), R250: NOW advances and every instance of the bus takes the tick (R321). -/
def State.tick (s : State) : State :=
  { s with now := s.now + 1#32, fcb := s.fcb.tick, peers := s.peers.map Fcb.tick }

end Sys2Proof.Machine
end

