-- ==== Sys2Proof/Machine/Dispatch.lean ====
section
/-! DEFINITION. The meaning of every command: one arm per constructor of Instr (R98). A command runs once its word is
accepted (R97); the acceptance itself is commandWrite of Machine/Bus.lean. -/

namespace Sys2Proof.Machine

def exec (i : Instr) (s : State) : Host.Outcome State Fault Refusal :=
  match i with
  | .nop => Sys2Proof.Machine.execNop s
  | .srst => Sys2Proof.Machine.execSrst s
  | .clrerr => Sys2Proof.Machine.execClrerr s
  | .cksum t l => Sys2Proof.Machine.execCksum t l s
  | .encode d k l => Sys2Proof.Machine.execEncode d k l s
  | .decStart => Sys2Proof.Machine.execDecStart s
  | .decByte b => Sys2Proof.Machine.execDecByte b s
  | .decEos => Sys2Proof.Machine.execDecEos s
  | .rdU8 n => Sys2Proof.Machine.execRdU8 n s
  | .rdU16be n => Sys2Proof.Machine.execRdU16be n s
  | .rdU16le n => Sys2Proof.Machine.execRdU16le n s
  | .rdS16be n => Sys2Proof.Machine.execRdS16be n s
  | .rdS16le n => Sys2Proof.Machine.execRdS16le n s
  | .bswap16 v => Sys2Proof.Machine.execBswap16 v s
  | .rdCell n => Sys2Proof.Machine.execRdCell n s
  | .ftCellOv v => Sys2Proof.Machine.execFtCellOv v s
  | .ftCellUv v => Sys2Proof.Machine.execFtCellUv v s
  | .ftPackOv v => Sys2Proof.Machine.execFtPackOv v s
  | .ftPackUv v => Sys2Proof.Machine.execFtPackUv v s
  | .ftChgOt v => Sys2Proof.Machine.execFtChgOt v s
  | .ftChgUt v => Sys2Proof.Machine.execFtChgUt v s
  | .ftDsgOt v => Sys2Proof.Machine.execFtDsgOt v s
  | .ftDsgUt v => Sys2Proof.Machine.execFtDsgUt v s
  | .ftChgOc v => Sys2Proof.Machine.execFtChgOc v s
  | .ftDsgOc v => Sys2Proof.Machine.execFtDsgOc v s
  | .ftShort v => Sys2Proof.Machine.execFtShort v s
  | .ftIcErr v => Sys2Proof.Machine.execFtIcErr v s
  | .ftMosLock v => Sys2Proof.Machine.execFtMosLock v s
  | .date v => Sys2Proof.Machine.execDate v s
  | .tempDk n => Sys2Proof.Machine.execTempDk n s
  | .tempDc n => Sys2Proof.Machine.execTempDc n s
  | .k2dc v => Sys2Proof.Machine.execK2dc v s
  | .balBit n => Sys2Proof.Machine.execBalBit n s
  | .balStr => Sys2Proof.Machine.execBalStr s
  | .mosPay b => Sys2Proof.Machine.execMosPay b s
  | .tgWait => Sys2Proof.Machine.execTgWait s
  | .tgMark => Sys2Proof.Machine.execTgMark s

end Sys2Proof.Machine
end

