-- ==== Sys2Proof/Machine/Flags.lean ====
section
/-! DEFINITION. The status and control registers as the 32-bit words software sees: error codes and phases as numbers,
STATUS, CTRL, DSTAT, TXLEN, RXHDR, RXTAIL and RXCK with their reserved bits 0 (R22–R46, R280, I2). -/

namespace Sys2Proof.Machine

/-- The number of an error code, R280. -/
def ErrCode.code : ErrCode → BitVec 4
  | .ok => 0#4
  | .malformedLength => 1#4
  | .transportShort => 2#4
  | .badStart => 3#4
  | .oversizedLength => 4#4
  | .checksumMismatch => 5#4
  | .badStop => 6#4
  | .deviceError => 7#4
  | .missingDest => 8#4
  | .illegalCommand => 9#4
  | .badArgument => 10#4
  | .noFrame => 11#4
  | .extractRange => 12#4

/-- The number of a decoder phase, R46. -/
def DState.code : DState → BitVec 3
  | .idle => 0#3
  | .hdr => 1#3
  | .pay => 2#3
  | .tail => 3#3
  | .done => 4#3

/-- STATUS, R24. -/
def Fcb.statusWord (f : Fcb) : Word :=
  (0#20) ++ f.cerr.code ++ (0#3) ++ BitVec.ofBool f.extraBytes ++ BitVec.ofBool f.cmdDropped ++ BitVec.ofBool f.txOk
    ++ BitVec.ofBool f.frameOk ++ BitVec.ofBool f.busy

/-- CTRL, R32. -/
def Fcb.ctrlWord (f : Fcb) : Word := (0#30) ++ BitVec.ofBool f.destEn ++ BitVec.ofBool f.sharedTs

/-- A write of CTRL keeps bits 1:0 only, R32 and R64. -/
def Fcb.setCtrl (v : Word) (f : Fcb) : Fcb := { f with sharedTs := v.getLsbD 0, destEn := v.getLsbD 1 }

/-- TXLEN, R38. -/
def Fcb.txlenWord (f : Fcb) : Word := (0#26) ++ f.txlen

/-- RXHDR, R42. -/
def Fcb.rxhdrWord (f : Fcb) : Word := f.hlen ++ f.hrc ++ f.hcmd ++ f.hstart

/-- RXTAIL, R43. -/
def Fcb.rxtailWord (f : Fcb) : Word := (0#8) ++ f.stopb ++ f.ck1 ++ f.ck0

/-- RXCK, R44. -/
def Fcb.rxckWord (f : Fcb) : Word := f.ckcalc ++ f.ckrx

/-- DSTAT, R45. -/
def Fcb.dstatWord (f : Fcb) : Word := (0#17) ++ f.dpos ++ (0#1) ++ f.dstate.code ++ f.dcode.code

end Sys2Proof.Machine
end

