-- ==== Sys2Proof/Machine/Bus.lean ====
section
/-! DEFINITION. The register window seen from the host bus (R22, R60–R64), the acceptance of a command word (R23, R97,
R293), the reset input (R320–R322) and one step of an agent (R292). -/

namespace Sys2Proof.Machine

/-- The size of the register window, R61. -/
def windowSize : Nat := 0x200

/-- What lies at a window offset, R61. -/
inductive Region where
  /-- A word register (R22). -/
  | register
  /-- TXPAY, read and written by the host. -/
  | requestBuffer
  /-- TXFRAME, RXPAY and OUTSTR, read by the host. -/
  | readOnlyBuffer
  /-- Nothing: every access is a bus error. -/
  | reserved
  deriving DecidableEq, Repr

/-- The window map, R61. -/
def regionOf (off : Nat) : Region :=
  if off < 0x038 then .register
  else if 0x040 ≤ off ∧ off ≤ 0x05D then .requestBuffer
  else if 0x080 ≤ off ∧ off ≤ 0x0A4 then .readOnlyBuffer
  else if 0x0C0 ≤ off ∧ off ≤ 0x0FF then .readOnlyBuffer
  else if 0x100 ≤ off ∧ off ≤ 0x120 then .readOnlyBuffer
  else .reserved

/-- The value of the register at an offset of R22. -/
def regRead (off : Nat) (s : State) : Word :=
  match off with
  | 0x000 => s.fcb.cmd
  | 0x004 => s.fcb.statusWord
  | 0x008 => s.fcb.result
  | 0x00C => s.fcb.ctrlWord
  | 0x010 => s.fcb.delay
  | 0x014 => s.now
  | 0x018 => s.fcb.last
  | 0x01C => s.shcell
  | 0x020 => s.fcb.waitrem
  | 0x024 => s.fcb.txlenWord
  | 0x028 => s.fcb.rxhdrWord
  | 0x02C => s.fcb.rxckWord
  | 0x030 => s.fcb.dstatWord
  | 0x034 => s.fcb.rxtailWord
  | _ => 0#32

/-- The bus error of an access whose width or alignment R62 does not allow, if any. -/
def accessError (n off : Nat) : Option Fault :=
  match regionOf off with
  | .register => if n ≠ 4 then some (.wrongWidth off n) else if off % 4 ≠ 0 then some (.misaligned off) else none
  | .requestBuffer => if n ≠ 1 then some (.wrongWidth off n) else none
  | .readOnlyBuffer => if n ≠ 1 then some (.wrongWidth off n) else none
  | .reserved => some (.reservedOffset off)

/-- MemRead of n bytes at a window offset, R62 to R64: it changes nothing. -/
def busRead (n off : Nat) (s : State) : BusReply :=
  match accessError n off with
  | some e => .error e
  | none =>
    match regionOf off with
    | .register => .word (regRead off s)
    | .requestBuffer => .byte (s.fcb.mem.read off)
    | .readOnlyBuffer => .byte (s.fcb.mem.read off)
    | .reserved => .error (.reservedOffset off)

/-- An accepted command word: CMD <- w, then the command of the word, or ILLEGAL_COMMAND where it is none (R23, R97,
R99). -/
def commandWord (w : Word) (s : State) : Host.Outcome State Fault Refusal :=
  match decode w with
  | .ok i => exec i (s.withFcb { s.fcb with cmd := w })
  | .error _ => .next (s.withFcb ({ s.fcb with cmd := w }.raise .illegalCommand))

/-- A write of CMD, R23 and R293: while BUSY = 1 every word but SRST's is dropped. -/
def commandWrite (w : Word) (s : State) : Host.Outcome State Fault Refusal :=
  if s.fcb.busy = true ∧ w ≠ 0x01000000#32 then .next (s.withFcb { s.fcb with cmdDropped := true })
  else commandWord w s

/-- A write that R62 and R63 allow, stored or run as R64 says: the registers a host may write, or a byte of TXPAY. -/
def storeAt (off : Nat) (v : Word) (s : State) : Host.Outcome State Fault Refusal :=
  match off with
  | 0x000 => commandWrite v s
  | 0x00C => .next (s.withFcb (s.fcb.setCtrl v))
  | 0x010 => .next (s.withFcb { s.fcb with delay := v })
  | 0x018 => .next (s.withFcb { s.fcb with last := v })
  | 0x01C => .next { s with shcell := v }
  | _ => .next (s.withFcb { s.fcb with mem := s.fcb.mem.write off (v.setWidth 8) })

/-- The offsets a host may write, R63 and R64: CMD, CTRL, DELAY, LAST, SHLAST and TXPAY. -/
def writable (off : Nat) : Bool :=
  off == 0x000 || off == 0x00C || off == 0x010 || off == 0x018 || off == 0x01C || regionOf off == .requestBuffer

/-- The bus error of a write, if any: the access's own, or a read-only place (R63). -/
def writeError (n off : Nat) : Option Fault :=
  match accessError n off with
  | some e => some e
  | none => if writable off then none else some (.readOnly off)

/-- The state with the bus's answer recorded for the host (log 15). -/
def State.withReply (r : BusReply) (s : State) : State := { s with busReply := r }

/-- MemWrite of n bytes at a window offset, R62 to R64: refused with a bus error and no FCB state changed, or stored. While
reset is asserted every element holds its reset value, so nothing is stored (R320, log 8). -/
def busWrite (n off : Nat) (v : Word) (s : State) : Host.Outcome State Fault Refusal :=
  match writeError n off with
  | some e => .next (s.withReply (.error e))
  | none => if s.resetLine then .next (s.withReply .written) else storeAt off v (s.withReply .written)

/-- One access of the host of State.fcb, R292 (a): the window lies at BASE (R61), and an access elsewhere on the host bus
is to another device (log 7). -/
def hostAccess (a : Access) (s : State) : Host.Outcome State Fault Refusal :=
  match a with
  | .read n addr =>
    if s.cfg.base ≤ addr ∧ addr < s.cfg.base + windowSize then
      .next (s.withReply (busRead n (addr - s.cfg.base) s))
    else .refused (.outsideWindow addr)
  | .write n addr v =>
    if s.cfg.base ≤ addr ∧ addr < s.cfg.base + windowSize then busWrite n (addr - s.cfg.base) v s
    else .refused (.outsideWindow addr)

/-- Reset asserted: every instance, NOW and SHCELL at their reset values (R320–R322). -/
def State.assertReset (s : State) : State :=
  { s with
    fcb := Fcb.reset, peers := s.peers.map (fun _ => Fcb.reset), now := 0#32, shcell := 0#32, resetLine := true }

/-- One step of an agent, R292; a tick while reset is asserted changes nothing (R320, log 8). -/
def runEvent (e : Event) (s : State) : Host.Outcome State Fault Refusal :=
  match e with
  | .tick => .next (if s.resetLine then s else s.tick)
  | .access k a => asClient k (hostAccess a) s
  | .reset true => .next s.assertReset
  | .reset false => .next { s with resetLine := false }

/-- The next agent step: the oldest of the agenda, and a tick when the agenda is empty (R292, log 3). -/
def nextEvent (s : State) : Event × State :=
  match s.agenda with
  | [] => (.tick, s)
  | e :: rest => (e, { s with agenda := rest })

/-- The host of client 0 writes a command word to CMD next (R23). -/
def State.pushCommand (w : Word) (s : State) : State :=
  { s with agenda := .access 0 (.write 4 s.cfg.base w) :: s.agenda }

end Sys2Proof.Machine
end

