-- ==== Sys2Proof/Machine/Step.lean ====
section
/-! DEFINITION. One step of the bus: one step of one agent (R292). -/

namespace Sys2Proof.Machine

/-- One step: the next agent's step runs (R292). -/
def step (s : State) : Host.Outcome State Fault Refusal := runEvent (nextEvent s).1 (nextEvent s).2

/-- The state whose next step is the host of client 0 writing the given command word to CMD: where a command comes from
(R21, R23, log 4). While BUSY = 1 that write is dropped, as R293 says (log 11). -/
def State.withFetchWord (s : State) (nbits w : Nat) : State := s.pushCommand (tableWord nbits w)

end Sys2Proof.Machine
end

