-- ==== Sys2Proof/Safety.lean ====
section
/-! DEFINITION. The terms claims are stated in: what a command that answers or raises leaves, sums and numbers of the
spec's formulas in unbounded integers (R6, R7, R120), the verdict on a whole response frame (R123, R284), runs of
commands, and the invariants of the machine. Nothing the machine computes with stands here. -/

namespace Sys2Proof.Machine

/-- The state in which RESULT is v and CERR is 0 and nothing else has changed (R31). -/
def State.answered (v : Word) (s : State) : State := { s with fcb := { s.fcb with result := v, cerr := .ok } }

/-- The state in which CERR is e and nothing else has changed (R281). -/
def State.raised (e : ErrCode) (s : State) : State := { s with fcb := { s.fcb with cerr := e } }

/-- The state in which CMD is the word, CERR is ILLEGAL_COMMAND and nothing else has changed (R97, R99). -/
def State.illegal (w : Word) (s : State) : State :=
  { s with fcb := { s.fcb with cmd := w, cerr := .illegalCommand } }

/-- A word of this opcode with a bit of the mask set raises ILLEGAL_COMMAND (R91–R97). -/
def IllegalWhenReserved (op : Byte) (mask : Word) : Prop :=
  ∀ (w : Word) (s : State), opcodeOf w = op → w &&& mask ≠ 0#32 → commandWord w s = .next (s.illegal w)

/-- s16(v), R7. -/
def s16 (v : Nat) : Int := if v < 0x8000 then (v : Int) else (v : Int) - 65536

/-- The number be16(RXPAY[off], RXPAY[off + 1]), R8. -/
def Fcb.beNat (off : Nat) (f : Fcb) : Nat := (f.rxpay off).toNat * 256 + (f.rxpay (off + 1)).toNat

/-- The number le16(RXPAY[off], RXPAY[off + 1]), R8. -/
def Fcb.leNat (off : Nat) (f : Fcb) : Nat := (f.rxpay (off + 1)).toNat * 256 + (f.rxpay off).toNat

/-- The sum of bytes as a number (R120). -/
def byteSum (bs : List Byte) : Nat := (bs.map BitVec.toNat).sum

/-- The sum TXPAY[0] + … + TXPAY[l−1] (R120, R125). -/
def Fcb.txSum (l : Nat) (f : Fcb) : Nat := byteSum ((List.range l).map f.txpay)

/-- The sum RXPAY[0] + … + RXPAY[n−1] (R120, R130). -/
def Fcb.rxSum (n : Nat) (f : Fcb) : Nat := byteSum ((List.range n).map f.rxpay)

/-- The checksum formula of R120 on numbers: (2^16 − ((t + l + Σ) mod 2^16)) mod 2^16. -/
def ckNat (t l sum : Nat) : Nat := (65536 - (t + l + sum) % 65536) % 65536

/-- The two checksum bytes of a number in wire order, R121. -/
def wireBytes (o : CksumOrder) (v : Nat) : List Byte :=
  match o with
  | .hiFirst => [BitVec.ofNat 8 (v / 256), BitVec.ofNat 8 v]
  | .loFirst => [BitVec.ofNat 8 v, BitVec.ofNat 8 (v / 256)]

/-- The number two wire bytes stand for, R121. -/
def wireNat (o : CksumOrder) (c0 c1 : Byte) : Nat :=
  match o with
  | .hiFirst => c0.toNat * 256 + c1.toNat
  | .loFirst => c1.toNat * 256 + c0.toNat

/-- The bytes of a frame, R122 and R123: the start byte, two header bytes, the length, the payload, the checksum over the
type byte t, the length and the payload, and the stop byte. -/
def frameBytes (o : CksumOrder) (b1 b2 t l : Byte) (p : List Byte) : List Byte :=
  [0xDD#8, b1, b2, l] ++ p ++ wireBytes o (ckNat t.toNat l.toNat (byteSum p)) ++ [0x77#8]

/-- The error the header check of R129 finds in the first four bytes, if any. -/
def headerFails (destEn : Bool) (bs : List Byte) : Option ErrCode :=
  if bs.getD 0 0#8 ≠ 0xDD#8 then some .badStart
  else if 64 < (bs.getD 3 0#8).toNat then some .oversizedLength
  else if 0 < (bs.getD 3 0#8).toNat ∧ destEn = false then some .missingDest
  else none

/-- How many of the bytes given to an armed decoder it takes, R137. -/
def bytesTaken (destEn : Bool) (bs : List Byte) : Nat :=
  if bs.length < 4 then bs.length
  else
    match headerFails destEn bs with
    | some _ => 4
    | none => min bs.length ((bs.getD 3 0#8).toNat + 7)

/-- The verdict of R130 on the trailer of a frame whose n payload bytes begin at position 4, in the order of R284. The
checksums agree when the type byte, the length, the payload and the received checksum sum to 0 modulo 2^16 (R120). -/
def trailerVerdict (o : CksumOrder) (n : Nat) (bs : List Byte) : ErrCode :=
  if ((bs.getD 2 0#8).toNat + n + byteSum ((bs.drop 4).take n)
        + wireNat o (bs.getD (4 + n) 0#8) (bs.getD (5 + n) 0#8)) % 65536 ≠ 0 then .checksumMismatch
  else if bs.getD (6 + n) 0#8 ≠ 0x77#8 then .badStop
  else if bs.getD 2 0#8 ≠ 0x00#8 then .deviceError
  else .ok

/-- The outcome of an armed decoder that has been given these bytes, R284; none while the frame is not complete. -/
def frameVerdict (o : CksumOrder) (destEn : Bool) (bs : List Byte) : Option ErrCode :=
  if bs.length < 4 then none
  else
    match headerFails destEn bs with
    | some e => some e
    | none =>
      if bs.length < (bs.getD 3 0#8).toNat + 7 then none
      else some (trailerVerdict o (bs.getD 3 0#8).toNat bs)

/-- Commands executed one after the other. -/
def runCommands (is : List Instr) (s : State) : Host.Outcome State Fault Refusal :=
  match is with
  | [] => .next s
  | i :: is =>
    match exec i s with
    | .next t => runCommands is t
    | .fault e => .fault e
    | .refused e => .refused e

/-- The commands that feed a decoder: DEC_START, then one DEC_BYTE a byte (R324, steps 6 to 8). -/
def feedCommands (bs : List Byte) : List Instr := .decStart :: bs.map Instr.decByte

/-- Several ticks. -/
def ticks (k : Nat) (s : State) : State := Nat.repeat State.tick k s

/-- The commands that only answer: they write RESULT and CERR and nothing else (R125, R172–R178, R201–R219). -/
def answersOnly : Instr → Bool
  | .cksum _ _ | .rdU8 _ | .rdU16be _ | .rdU16le _ | .rdS16be _ | .rdS16le _ | .bswap16 _ | .rdCell _ => true
  | .ftCellOv _ | .ftCellUv _ | .ftPackOv _ | .ftPackUv _ | .ftChgOt _ | .ftChgUt _ | .ftDsgOt _ | .ftDsgUt _ => true
  | .ftChgOc _ | .ftDsgOc _ | .ftShort _ | .ftIcErr _ | .ftMosLock _ => true
  | .date _ | .tempDk _ | .tempDc _ | .k2dc _ | .balBit _ => true
  | .nop | .srst | .clrerr | .encode _ _ _ | .decStart | .decByte _ | .decEos | .balStr | .mosPay _ => false
  | .tgWait | .tgMark => false

/-- The payload bytes a reader asks for first, as an offset and a count, and none for a command that reads no payload or
whose operand is refused before the payload is looked at (R170, R178, R215, R219, R220, R283). -/
def payloadRange : Instr → Option (Nat × Nat)
  | .rdU8 n => some (n.toNat, 1)
  | .rdU16be n | .rdU16le n | .rdS16be n | .rdS16le n => some (n.toNat, 2)
  | .rdCell n => if n.toNat < 32 then some (2 * n.toNat, 2) else none
  | .tempDk n | .tempDc n => if n.toNat < 8 then some (22, 1) else none
  | .balBit n => if 1 ≤ n.toNat ∧ n.toNat ≤ 32 then some (12, 4) else none
  | .balStr => some (12, 10)
  | .nop | .srst | .clrerr | .cksum _ _ | .encode _ _ _ | .decStart | .decByte _ | .decEos | .bswap16 _ => none
  | .ftCellOv _ | .ftCellUv _ | .ftPackOv _ | .ftPackUv _ | .ftChgOt _ | .ftChgUt _ | .ftDsgOt _ | .ftDsgUt _ => none
  | .ftChgOc _ | .ftDsgOc _ | .ftShort _ | .ftIcErr _ | .ftMosLock _ | .date _ | .k2dc _ | .mosPay _ => none
  | .tgWait | .tgMark => none

/-- A property of every instance of the bus. -/
abbrev State.everyFcb (P : Fcb → Prop) (s : State) : Prop := P s.fcb ∧ ∀ f ∈ s.peers, P f

/-- The buffers' contents are in canonical form (log 10). -/
abbrev Fcb.memCanonical (f : Fcb) : Prop := f.mem.wf = true

/-- Only bytes of the four buffers of R61 are held. -/
abbrev Fcb.memInBuffers (f : Fcb) : Prop :=
  ∀ c ∈ f.mem, regionOf c.1 = .requestBuffer ∨ regionOf c.1 = .readOnlyBuffer

/-- WAITREM is 0 exactly when BUSY = 0 (R41, R254). -/
abbrev Fcb.waitInv (f : Fcb) : Prop := f.busy = true ↔ f.waitrem ≠ 0#32

/-- The decoder's phases, R45 and R46: the byte position of each phase, no outcome while a decode is in progress, and
FRAME_OK exactly for a finished frame of outcome 0 (R26). -/
abbrev Fcb.decodeInv (f : Fcb) : Prop :=
  (f.dstate = .idle → f.dpos = 0#7) ∧
  (f.dstate = .hdr → f.dpos.toNat < 4) ∧
  (f.dstate = .pay → f.hlen.toNat ≤ 64 ∧ 4 ≤ f.dpos.toNat ∧ f.dpos.toNat < 4 + f.hlen.toNat) ∧
  (f.dstate = .tail → f.hlen.toNat ≤ 64 ∧ 4 + f.hlen.toNat ≤ f.dpos.toNat ∧ f.dpos.toNat < 7 + f.hlen.toNat) ∧
  (f.dstate = .done → f.dpos.toNat ≤ 71) ∧
  (f.dstate ≠ .done → f.dcode = .ok ∧ f.frameOk = false) ∧
  (f.dstate = .done → (f.frameOk = true ↔ f.dcode = .ok)) ∧
  (f.dstate = .pay ∨ f.dstate = .tail → f.hstart = 0xDD#8) ∧
  (f.dcode.code = 0#4 ∨ 2 ≤ f.dcode.code.toNat ∧ f.dcode.code.toNat ≤ 8)

/-- FRAME_OK = 1 says that RXHDR, RXPAY and RXTAIL hold a good frame (R24, R26, R123): the start and stop bytes, a length
of at most 64, returncode 0, and a checksum that agrees with the bytes held. -/
abbrev Fcb.frameInv (o : CksumOrder) (f : Fcb) : Prop :=
  f.frameOk = true →
    f.hstart = 0xDD#8 ∧ f.hrc = 0x00#8 ∧ f.hlen.toNat ≤ 64 ∧ f.stopb = 0x77#8 ∧
    f.dpos.toNat = f.hlen.toNat + 7 ∧ f.ckrx = f.ckcalc ∧ f.ckrx.toNat = wireNat o f.ck0 f.ck1 ∧
    (f.hrc.toNat + f.hlen.toNat + f.rxSum f.hlen.toNat + wireNat o f.ck0 f.ck1) % 65536 = 0

/-- TX_OK = 1 says that TXFRAME[0 .. TXLEN−1] holds a request frame of R122, and TXLEN is 0 otherwise (R24, R27, R38). -/
abbrev Fcb.txInv (o : CksumOrder) (f : Fcb) : Prop :=
  (f.txOk = false → f.txlen = 0#6) ∧
  (f.txOk = true →
    7 ≤ f.txlen.toNat ∧ f.txlen.toNat ≤ 37 ∧ (f.txframe 1 = 0xA5#8 ∨ f.txframe 1 = 0x5A#8) ∧
    f.mem.readBytes txframeBase f.txlen.toNat =
      frameBytes o (f.txframe 1) (f.txframe 2) (f.txframe 2) (BitVec.ofNat 8 (f.txlen.toNat - 7))
        (f.mem.readBytes (txframeBase + 4) (f.txlen.toNat - 7)))

/-- The bus has N_CLIENTS clients, and while reset is asserted every instance, NOW and SHCELL hold their reset values
(R295, R320–R322). -/
abbrev State.platformInv (s : State) : Prop :=
  s.peers.length + 1 = s.cfg.nClients ∧
  (s.resetLine = true → s.everyFcb (fun f => f = Fcb.reset) ∧ s.now = 0#32 ∧ s.shcell = 0#32)

/-- A run is quiescent for an instance when no wait and no decode is in progress (R334; that the host has no command
left is the agenda's). -/
abbrev Fcb.quiescent (f : Fcb) : Prop := f.busy = false ∧ (f.dstate = .idle ∨ f.dstate = .done)

end Sys2Proof.Machine
end

