-- ==== Sys2Proof/Certificates/Slice0/Obligations.lean ====
section
/-! DEFINITION. The statements for the provers, each a formalisation of the numbered rules of spec/ it cites. -/

open Sys2Proof Sys2Proof.Machine

/-! ### Encoding -/

/-- Decoding the word of a command gives the command back, with every operand (R91–R98, R102). -/
def Obligations.DecodeOfEncodeIsIdentity : Prop :=
  ∀ i : Instr, decode (encode i) = .ok i

/-- A word that decodes is the word of the command it decodes to: no bit of it is dropped (R97, R102). -/
def Obligations.EncodeOfDecodeIsIdentity : Prop :=
  ∀ (w : Word) (i : Instr), decode w = .ok i → encode i = w

/-- R97 and R99: every word is either one row of the opcode map, and is then executed with CMD holding it, or raises
ILLEGAL_COMMAND and changes nothing but CERR (and CMD, which R23 writes with every accepted word). -/
def Obligations.CommandWordIsMapRowOrIllegal : Prop :=
  ∀ (w : Word) (s : State),
    (wordWellFormed w = true →
      ∃ i, decode w = .ok i ∧ encode i = w ∧ commandWord w s = exec i { s with fcb := { s.fcb with cmd := w } }) ∧
    (wordWellFormed w = false → (∀ i, decode w ≠ .ok i) ∧ commandWord w s = .next (s.illegal w)) ∧
    ((0x03 ≤ (w.extractLsb' 24 8).toNat ∧ (w.extractLsb' 24 8).toNat ≤ 0x0F ∨
      0x15 ≤ (w.extractLsb' 24 8).toNat ∧ (w.extractLsb' 24 8).toNat ≤ 0x1F ∨
      0x27 ≤ (w.extractLsb' 24 8).toNat ∧ (w.extractLsb' 24 8).toNat ≤ 0x2F ∨
      0x3D ≤ (w.extractLsb' 24 8).toNat ∧ (w.extractLsb' 24 8).toNat ≤ 0x3F ∨
      0x47 ≤ (w.extractLsb' 24 8).toNat ∧ (w.extractLsb' 24 8).toNat ≤ 0x4F ∨
      0x52 ≤ (w.extractLsb' 24 8).toNat) → commandWord w s = .next (s.illegal w))

/-- Words written out from the spec's encodings decode to the commands they stand for (test vectors of spec 95). -/
def Obligations.SpecWordsDecode : Prop :=
  decode 0x00000000#32 = .ok .nop ∧
  decode 0x1000E102#32 = .ok (.cksum 0xE1#8 2#8) ∧
  decode 0x115A101E#32 = .ok (.encode 0x5A#8 0x10#8 30#8) ∧
  decode 0x130000DD#32 = .ok (.decByte 0xDD#8) ∧
  decode 0x23000002#32 = .ok (.rdS16be 2#8) ∧
  decode 0x3A000401#32 = .ok (.ftShort 0x0401#16) ∧
  decode 0x4000339F#32 = .ok (.date 0x339F#16) ∧
  decode 0x44000014#32 = .ok (.balBit 20#8) ∧
  decode 0x51000000#32 = .ok .tgMark

/-! ### The step and the command register -/

/-- A step runs the decoded command: when the host of client 0 writes a command word next, reset is not asserted and no
wait is in progress, the step is exec of the decoded command, with CMD holding the word and the write acknowledged
(busReply, log 15); and where the word is no command, the step raises ILLEGAL_COMMAND with CMD holding the word (log 16)
and changes nothing else. -/
def Obligations.StepRunsDecodedCommand : Prop :=
  (∀ (w : Word) (i : Instr) (s : State), decode w = .ok i → s.fcb.busy = false → s.resetLine = false →
    step (s.withFetchWord 32 w.toNat) = exec i { s with busReply := .written, fcb := { s.fcb with cmd := w } }) ∧
  (∀ (w : Word) (s : State), wordWellFormed w = false → s.fcb.busy = false → s.resetLine = false →
    step (s.withFetchWord 32 w.toNat) =
      .next { s with busReply := .written, fcb := { s.fcb with cmd := w, cerr := .illegalCommand } })

/-- R293: while BUSY = 1 a command word is dropped and of the FCB only CMD_DROPPED changes, but for the SRST word, which
is executed. The step also acknowledges the write in busReply, the model's own field (DESIGN CHOICE, log 15). -/
def Obligations.BusyDropsAllButSoftReset : Prop :=
  ∀ (w : Word) (s : State), s.fcb.busy = true → s.resetLine = false →
    (w ≠ 0x01000000#32 →
      step (s.pushCommand w) = .next { s with busReply := .written, fcb := { s.fcb with cmdDropped := true } }) ∧
    step (s.pushCommand 0x01000000#32) =
      exec .srst { s with busReply := .written, fcb := { s.fcb with cmd := 0x01000000#32 } }

/-! ### Control commands and reset -/

/-- R286 and R100: NOP writes CERR and nothing else, and the all-zero word is its only encoding. -/
def Obligations.NopOnlyClearsCerr : Prop :=
  (∀ s : State, exec .nop s = .next (s.raised .ok)) ∧
  (∀ w : Word, decode w = .ok .nop ↔ w = 0#32) ∧
  IllegalWhenReserved 0x00#8 0x00FFFFFF#32

/-- R287: SRST puts every element of this instance at its reset value, CMD at the SRST word, and keeps NOW, SHCELL and
every other instance; with a reserved bit set it resets nothing. -/
def Obligations.SoftResetKeepsTimeBase : Prop :=
  (∀ s : State, exec .srst s = .next { s with fcb := { Fcb.reset with cmd := 0x01000000#32 } }) ∧
  decode 0x01000000#32 = .ok .srst ∧ IllegalWhenReserved 0x01#8 0x00FFFFFF#32

/-- R288: CLRERR clears the two sticky flags and CERR, and nothing else. -/
def Obligations.ClearErrorsClearsStickyFlags : Prop :=
  (∀ s : State,
    exec .clrerr s = .next { s with fcb := { s.fcb with cmdDropped := false, extraBytes := false, cerr := .ok } }) ∧
  decode 0x02000000#32 = .ok .clrerr ∧ IllegalWhenReserved 0x02#8 0x00FFFFFF#32

/-- R320 (with R321 and R322): asserting reset puts every instance of the bus, NOW and SHCELL at their reset values, and
the reset value of every register is 0 but CTRL = 2 and DELAY = 60, of every buffer byte 0, of DSTATE IDLE. -/
def Obligations.ResetLeavesResetValues : Prop :=
  (∀ (s : State) (rest : List Event), ∃ t, step { s with agenda := .reset true :: rest } = .next t ∧
    t.everyFcb (fun f => f = Fcb.reset) ∧ t.peers.length = s.peers.length ∧ t.now = 0#32 ∧ t.shcell = 0#32 ∧
    t.cfg = s.cfg ∧ t.agenda = rest) ∧
  (∀ cfg : Config, 1 ≤ cfg.nClients →
    (State.resetWith cfg).everyFcb (fun f => f = Fcb.reset) ∧ (State.resetWith cfg).platformInv ∧
    (State.resetWith cfg).now = 0#32 ∧ (State.resetWith cfg).shcell = 0#32) ∧
  (∀ s : State, s.fcb = Fcb.reset → s.now = 0#32 → s.shcell = 0#32 → ∀ k < 14,
    (regRead (4 * k) s).toNat = if k = 3 then 2 else if k = 4 then 60 else 0) ∧
  (∀ a, Fcb.reset.mem.read a = 0#8) ∧ Fcb.reset.dstate = .idle ∧ Fcb.reset.destEn = true ∧ Fcb.reset.sharedTs = false

/-! ### Checksum and encode -/

/-- R120: the checksum is the formula modulo 2^16, and the order of the payload bytes does not change it. -/
def Obligations.ChecksumIsAdditive : Prop :=
  ∀ (t l : Byte) (p : List Byte),
    (ck16 t l p).toNat = ckNat t.toNat l.toNat (byteSum p) ∧ ∀ q, p.Perm q → ck16 t l p = ck16 t l q

/-- R121: the two wire bytes of a checksum under each order, and assembling them gives the checksum back. -/
def Obligations.WireOrderRoundTrips : Prop :=
  ∀ (o : CksumOrder) (v : Half) (c0 c1 : Byte),
    [(wireCk o v).1, (wireCk o v).2] = wireBytes o v.toNat ∧
    (assembleCk o c0 c1).toNat = wireNat o c0 c1 ∧
    assembleCk o (wireCk o v).1 (wireCk o v).2 = v

/-- R125: CKSUM answers the checksum of the request payload, or raises MALFORMED_LENGTH with RESULT 0. -/
def Obligations.ChecksumCommandResult : Prop :=
  (∀ (t l : Byte) (s : State),
    exec (.cksum t l) s = .next
      (if 31 ≤ l.toNat ∨
          (s.cfg.sentinelCompat = true ∧ ckNat t.toNat l.toNat (s.fcb.txSum l.toNat) = 0) then
        { s with fcb := { s.fcb with result := 0#32, cerr := .malformedLength } }
      else s.answered (BitVec.ofNat 32 (ckNat t.toNat l.toNat (s.fcb.txSum l.toNat))))) ∧
  (∀ t l : Byte, decode (0x10#8 ++ 0#8 ++ t ++ l) = .ok (.cksum t l)) ∧
  IllegalWhenReserved 0x10#8 0x00FF0000#32

/-- R127: of a request the checksum is 0 exactly when the type byte and the length are 0; with SENTINEL_COMPAT = 1 CKSUM
and ENCODE raise MALFORMED_LENGTH for it, with 0 it is an ordinary value; and the parameter changes no other command. -/
def Obligations.SentinelChangesOnlyTheZeroRequest : Prop :=
  (∀ (t l : Byte) (f : Fcb), l.toNat ≤ 30 →
    (ckNat t.toNat l.toNat (f.txSum l.toNat) = 0 ↔ t = 0#8 ∧ l = 0#8)) ∧
  (∀ (i : Instr) (s : State) (b : Bool), i ≠ .cksum 0#8 0#8 → (∀ d, i ≠ .encode d 0#8 0#8) →
    ∃ u, exec i s = .next u ∧
      exec i { s with cfg := { s.cfg with sentinelCompat := b } } =
        .next { u with cfg := { u.cfg with sentinelCompat := b } }) ∧
  (∀ s : State, s.cfg.sentinelCompat = true →
    exec (.cksum 0#8 0#8) s = .next { s with fcb := { s.fcb with result := 0#32, cerr := .malformedLength } } ∧
    ∀ d : Byte, d = 0xA5#8 ∨ d = 0x5A#8 →
      exec (.encode d 0#8 0#8) s = .next { s with
        fcb := { s.fcb with txOk := false, txlen := 0#6, result := 0#32, cerr := .malformedLength } }) ∧
  (∀ s : State, s.cfg.sentinelCompat = false → exec (.cksum 0#8 0#8) s = .next (s.answered 0#32) ∧
    ∀ d : Byte, d = 0xA5#8 ∨ d = 0x5A#8 → ∃ t, exec (.encode d 0#8 0#8) s = .next t ∧
      t.fcb.txOk = true ∧ t.fcb.txlen = 7#6 ∧ t.fcb.result = 0#32 ∧ t.fcb.cerr = .ok)

/-- R126 and R122: ENCODE refuses a direction other than READ and WRITE, then a length above 30 or the sentinel, each with
TX_OK and TXLEN cleared and TXFRAME kept; otherwise TXFRAME holds the request frame and nothing else of memory changes. -/
def Obligations.EncodeBuildsRequestFrame : Prop :=
  (∀ (d k l : Byte) (s : State), d ≠ 0xA5#8 → d ≠ 0x5A#8 →
    exec (.encode d k l) s =
      .next { s with fcb := { s.fcb with txOk := false, txlen := 0#6, cerr := .badArgument } }) ∧
  (∀ (d k l : Byte) (s : State), d = 0xA5#8 ∨ d = 0x5A#8 →
    31 ≤ l.toNat ∨ (s.cfg.sentinelCompat = true ∧ ckNat k.toNat l.toNat (s.fcb.txSum l.toNat) = 0) →
    exec (.encode d k l) s =
      .next { s with
        fcb := { s.fcb with txOk := false, txlen := 0#6, result := 0#32, cerr := .malformedLength } }) ∧
  (∀ (d k l : Byte) (s : State), d = 0xA5#8 ∨ d = 0x5A#8 → l.toNat ≤ 30 →
    s.cfg.sentinelCompat = false ∨ ckNat k.toNat l.toNat (s.fcb.txSum l.toNat) ≠ 0 → s.fcb.memCanonical →
    ∃ t, exec (.encode d k l) s = .next t ∧
      t = { s with
        fcb := { s.fcb with
          mem := t.fcb.mem, txlen := BitVec.ofNat 6 (l.toNat + 7), txOk := true, cerr := .ok,
          result := BitVec.ofNat 32 (ckNat k.toNat l.toNat (s.fcb.txSum l.toNat)) } } ∧
      t.fcb.mem.readBytes 0x080 (l.toNat + 7) =
        frameBytes s.cfg.wireCksumOrder d k k l ((List.range l.toNat).map s.fcb.txpay) ∧
      (∀ a, a < 0x080 ∨ 0x080 + l.toNat + 7 ≤ a → t.fcb.mem.read a = s.fcb.mem.read a)) ∧
  (∀ d k l : Byte, decode (0x11#8 ++ d ++ k ++ l) = .ok (.encode d k l))

/-! ### Decoder -/

/-- R128: DEC_START arms the decoder and clears its record; RXPAY and EXTRA_BYTES stay. -/
def Obligations.DecodeStartArmsDecoder : Prop :=
  (∀ s : State, ∃ t, exec .decStart s = .next t ∧
    t.fcb.dstatWord = 0x00000010#32 ∧ t.fcb.rxhdrWord = 0#32 ∧ t.fcb.rxtailWord = 0#32 ∧ t.fcb.rxckWord = 0#32 ∧
    t = { s with
      fcb := { s.fcb with
        dstate := .hdr, dpos := 0#7, dcode := .ok, frameOk := false, cerr := .ok,
        hstart := 0#8, hcmd := 0#8, hrc := 0#8, hlen := 0#8, ck0 := 0#8, ck1 := 0#8, stopb := 0#8,
        ckrx := 0#16, ckcalc := 0#16 } }) ∧
  decode 0x12000000#32 = .ok .decStart ∧ IllegalWhenReserved 0x12#8 0x00FFFFFF#32

/-- DEC_BYTE in IDLE and DONE drops the byte and sets EXTRA_BYTES (R131, R29); its word, R131. -/
def Obligations.UnexpectedByteSetsExtraBytes : Prop :=
  (∀ (b : Byte) (s : State), s.fcb.dstate = .idle ∨ s.fcb.dstate = .done →
    exec (.decByte b) s = .next { s with fcb := { s.fcb with extraBytes := true, cerr := .ok } }) ∧
  (∀ b : Byte, decode (0x13#8 ++ 0#16 ++ b) = .ok (.decByte b)) ∧ IllegalWhenReserved 0x13#8 0x00FFFF00#32

/-- DEC_BYTE in the header phase (R131): the header bytes are taken in order, and at the fourth the header check of R129
runs: BAD_START, then OVERSIZED_LENGTH, then MISSING_DEST, else the trailer for an empty payload and the payload
otherwise. -/
def Obligations.HeaderBytesAndHeaderCheck : Prop :=
  ∀ (b : Byte) (s : State), s.fcb.dstate = .hdr →
    (s.fcb.dpos = 0#7 →
      exec (.decByte b) s = .next { s with fcb := { s.fcb with hstart := b, dpos := 1#7, cerr := .ok } }) ∧
    (s.fcb.dpos = 1#7 →
      exec (.decByte b) s = .next { s with fcb := { s.fcb with hcmd := b, dpos := 2#7, cerr := .ok } }) ∧
    (s.fcb.dpos = 2#7 →
      exec (.decByte b) s = .next { s with fcb := { s.fcb with hrc := b, dpos := 3#7, cerr := .ok } }) ∧
    (s.fcb.dpos = 3#7 →
      let taken : Fcb := { s.fcb with hlen := b, dpos := 4#7, cerr := .ok }
      exec (.decByte b) s = .next { s with fcb :=
        if s.fcb.hstart ≠ 0xDD#8 then { taken with dstate := .done, dcode := .badStart }
        else if 64 < b.toNat then { taken with dstate := .done, dcode := .oversizedLength }
        else if 0 < b.toNat ∧ s.fcb.destEn = false then { taken with dstate := .done, dcode := .missingDest }
        else if b.toNat = 0 then { taken with dstate := .tail }
        else { taken with dstate := .pay } })

/-- DEC_BYTE in the payload phase (R131, R39): the byte goes to RXPAY[DPOS − 4] and to no other byte of memory, and the
last payload byte moves to the trailer. -/
def Obligations.PayloadBytesFillRxpay : Prop :=
  ∀ (b : Byte) (s : State), s.fcb.dstate = .pay → s.fcb.decodeInv → s.fcb.memCanonical →
    ∃ t, exec (.decByte b) s = .next t ∧
      t = { s with
        fcb := { s.fcb with
          mem := t.fcb.mem, dpos := BitVec.ofNat 7 (s.fcb.dpos.toNat + 1), cerr := .ok,
          dstate := if s.fcb.dpos.toNat + 1 = 4 + s.fcb.hlen.toNat then .tail else .pay } } ∧
      t.fcb.rxpay (s.fcb.dpos.toNat - 4) = b ∧
      (∀ a, a ≠ 0x0C0 + (s.fcb.dpos.toNat - 4) → t.fcb.mem.read a = s.fcb.mem.read a)

/-- DEC_BYTE in the trailer phase and the trailer check R130: two checksum bytes, then the stop byte, at which both
checksums are recorded and the outcome is CHECKSUM_MISMATCH, then BAD_STOP, then DEVICE_ERROR, then 0. -/
def Obligations.TrailerCheckOrder : Prop :=
  ∀ (b : Byte) (s : State), s.fcb.dstate = .tail → s.fcb.decodeInv →
    (s.fcb.dpos.toNat = 4 + s.fcb.hlen.toNat →
      exec (.decByte b) s = .next { s with
        fcb := { s.fcb with ck0 := b, dpos := BitVec.ofNat 7 (5 + s.fcb.hlen.toNat), cerr := .ok } }) ∧
    (s.fcb.dpos.toNat = 5 + s.fcb.hlen.toNat →
      exec (.decByte b) s = .next { s with
        fcb := { s.fcb with ck1 := b, dpos := BitVec.ofNat 7 (6 + s.fcb.hlen.toNat), cerr := .ok } }) ∧
    (s.fcb.dpos.toNat = 6 + s.fcb.hlen.toNat →
      let received := wireNat s.cfg.wireCksumOrder s.fcb.ck0 s.fcb.ck1
      let computed := ckNat s.fcb.hrc.toNat s.fcb.hlen.toNat (s.fcb.rxSum s.fcb.hlen.toNat)
      exec (.decByte b) s = .next { s with
        fcb := { s.fcb with
          stopb := b, dpos := BitVec.ofNat 7 (7 + s.fcb.hlen.toNat), cerr := .ok, dstate := .done,
          ckrx := BitVec.ofNat 16 received, ckcalc := BitVec.ofNat 16 computed,
          dcode := if received ≠ computed then .checksumMismatch
            else if b ≠ 0x77#8 then .badStop
            else if s.fcb.hrc ≠ 0x00#8 then .deviceError
            else .ok,
          frameOk := decide (received = computed ∧ b = 0x77#8 ∧ s.fcb.hrc = 0x00#8) } })

/-- R132: DEC_EOS ends a frame in progress with TRANSPORT_SHORT, and otherwise changes nothing but CERR. -/
def Obligations.StreamEndIsTransportShort : Prop :=
  (∀ s : State, exec .decEos s = .next { s with fcb :=
    if s.fcb.dstate = .idle ∨ s.fcb.dstate = .done then { s.fcb with cerr := .ok }
    else { s.fcb with dstate := .done, dcode := .transportShort, cerr := .ok } }) ∧
  decode 0x14000000#32 = .ok .decEos ∧ IllegalWhenReserved 0x14#8 0x00FFFFFF#32

/-- The streaming decoder agrees with the verdict on the whole byte string (R123, R129–R131, R137, R284): after DEC_START
and any bytes it has taken exactly the bytes of the frame, put the payload into RXPAY, recorded the first failing check in
byte order, set FRAME_OK for outcome 0 only, and counted every further byte as extra. -/
def Obligations.DecoderMeetsFrameVerdict : Prop :=
  ∀ (bs : List Byte) (s : State), s.fcb.memCanonical →
    ∃ t, runCommands (feedCommands bs) s = .next t ∧
      (t.fcb.dstate = .done ↔ (frameVerdict s.cfg.wireCksumOrder s.fcb.destEn bs).isSome = true) ∧
      t.fcb.dcode = (frameVerdict s.cfg.wireCksumOrder s.fcb.destEn bs).getD .ok ∧
      (t.fcb.frameOk = true ↔ frameVerdict s.cfg.wireCksumOrder s.fcb.destEn bs = some .ok) ∧
      t.fcb.dpos.toNat = bytesTaken s.fcb.destEn bs ∧
      (∀ k < t.fcb.hlen.toNat, 4 + k < bytesTaken s.fcb.destEn bs → t.fcb.rxpay k = bs.getD (4 + k) 0#8) ∧
      (t.fcb.extraBytes = true ↔ s.fcb.extraBytes = true ∨ bytesTaken s.fcb.destEn bs < bs.length) ∧
      t.fcb.cerr = .ok

/-- R135: an encoded request given back to the decoder passes the checksum, start and stop checks under either order, and
its outcome is 0 for command 0 and DEVICE_ERROR otherwise; a response frame built by the same formula has outcome 0
exactly when its returncode is 0. -/
def Obligations.EncodedFramesDecode : Prop :=
  (∀ (d k l : Byte) (s t : State), s.fcb.memCanonical → s.fcb.destEn = true →
    exec (.encode d k l) s = .next t → t.fcb.txOk = true →
    ∃ u, runCommands (feedCommands (t.fcb.mem.readBytes 0x080 (l.toNat + 7))) t = .next u ∧
      u.fcb.dstate = .done ∧ u.fcb.ckrx = u.fcb.ckcalc ∧ u.fcb.stopb = 0x77#8 ∧
      u.fcb.dcode = (if k = 0#8 then .ok else .deviceError) ∧ (u.fcb.frameOk = true ↔ k = 0#8)) ∧
  (∀ (c rc : Byte) (p : List Byte) (s : State), p.length ≤ 64 → s.fcb.memCanonical → s.fcb.destEn = true →
    ∃ u, runCommands (feedCommands
        (frameBytes s.cfg.wireCksumOrder c rc rc (BitVec.ofNat 8 p.length) p)) s = .next u ∧
      u.fcb.dstate = .done ∧ (u.fcb.dcode = .ok ↔ rc = 0#8) ∧
      u.fcb.mem.readBytes 0x0C0 p.length = p)

/-- R136: with exactly one byte of a good response frame changed, the length byte apart, the decode is finished with
BAD_START, BAD_STOP or CHECKSUM_MISMATCH by the byte changed and FRAME_OK 0, and with the echoed command byte changed it
is finished with outcome 0 and FRAME_OK 1. A changed length byte gives
another frame, of which R136 fixes no outcome: DecoderMeetsFrameVerdict says what the decoder makes of it. -/
def Obligations.SingleCorruptionIsDetected : Prop :=
  ∀ (c x : Byte) (p : List Byte) (j : Nat) (s : State),
    let good := frameBytes s.cfg.wireCksumOrder c 0#8 0#8 (BitVec.ofNat 8 p.length) p
    p.length ≤ 64 → s.fcb.memCanonical → s.fcb.destEn = true → j < good.length → good.getD j 0#8 ≠ x → j ≠ 3 →
    ∃ u, runCommands (feedCommands (good.set j x)) s = .next u ∧
      u.fcb.dstate = .done ∧ (u.fcb.frameOk = true ↔ j = 1) ∧
      u.fcb.dcode = (if j = 0 then .badStart else if j = 1 then .ok
        else if j = 6 + p.length then .badStop else .checksumMismatch)

/-! ### Payload readers -/

/-- R170: every reader of the received payload raises NO_FRAME without a good frame and EXTRACT_RANGE for bytes outside
the frame's payload, and writes nothing but CERR then; inside the payload the byte and the fields at the offset are given;
and no byte outside the frame's own payload is read: the answer is the same whatever those bytes are. -/
def Obligations.ReadersAreGatedByTheFrame : Prop :=
  (∀ (i : Instr) (off w : Nat) (s : State), payloadRange i = some (off, w) →
    (s.fcb.frameOk = false → exec i s = .next (s.raised .noFrame)) ∧
    (s.fcb.frameOk = true → s.fcb.hlen.toNat < off + w → exec i s = .next (s.raised .extractRange))) ∧
  (∀ (off : Nat) (f : Fcb), f.frameOk = true →
    (off + 1 ≤ f.hlen.toNat → rxU8 off f = .ok (f.rxpay off)) ∧
    (off + 2 ≤ f.hlen.toNat → rxU16be off f = .ok (f.rxpay off ++ f.rxpay (off + 1)) ∧
      rxU16le off f = .ok (f.rxpay (off + 1) ++ f.rxpay off))) ∧
  (∀ (i : Instr) (s : State) (m : Memory), (payloadRange i).isSome = true →
    (∀ k < s.fcb.hlen.toNat, m.read (0x0C0 + k) = s.fcb.rxpay k) →
    ∃ t u, exec i s = .next t ∧ exec i { s with fcb := { s.fcb with mem := m } } = .next u ∧
      u.fcb.result = t.fcb.result ∧ u.fcb.cerr = t.fcb.cerr)

/-- R172, R173 and R174: the unsigned readers. -/
def Obligations.UnsignedReadersResult : Prop :=
  (∀ (n : Byte) (s : State), exec (.rdU8 n) s = .next
    (if s.fcb.frameOk = false then s.raised .noFrame
     else if s.fcb.hlen.toNat < n.toNat + 1 then s.raised .extractRange
     else s.answered (BitVec.ofNat 32 (s.fcb.rxpay n.toNat).toNat))) ∧
  (∀ (n : Byte) (s : State), exec (.rdU16be n) s = .next
    (if s.fcb.frameOk = false then s.raised .noFrame
     else if s.fcb.hlen.toNat < n.toNat + 2 then s.raised .extractRange
     else s.answered (BitVec.ofNat 32 (s.fcb.beNat n.toNat)))) ∧
  (∀ (n : Byte) (s : State), exec (.rdU16le n) s = .next
    (if s.fcb.frameOk = false then s.raised .noFrame
     else if s.fcb.hlen.toNat < n.toNat + 2 then s.raised .extractRange
     else s.answered (BitVec.ofNat 32 (s.fcb.leNat n.toNat)))) ∧
  (∀ n : Byte, decode (0x20#8 ++ 0#16 ++ n) = .ok (.rdU8 n) ∧ decode (0x21#8 ++ 0#16 ++ n) = .ok (.rdU16be n) ∧
    decode (0x22#8 ++ 0#16 ++ n) = .ok (.rdU16le n)) ∧
  IllegalWhenReserved 0x20#8 0x00FFFF00#32 ∧ IllegalWhenReserved 0x21#8 0x00FFFF00#32 ∧
  IllegalWhenReserved 0x22#8 0x00FFFF00#32

/-- R175 and R176: the signed readers give the two's-complement reading of the field. -/
def Obligations.SignedReadersResult : Prop :=
  (∀ (n : Byte) (s : State), exec (.rdS16be n) s = .next
    (if s.fcb.frameOk = false then s.raised .noFrame
     else if s.fcb.hlen.toNat < n.toNat + 2 then s.raised .extractRange
     else s.answered (BitVec.ofInt 32 (s16 (s.fcb.beNat n.toNat))))) ∧
  (∀ (n : Byte) (s : State), exec (.rdS16le n) s = .next
    (if s.fcb.frameOk = false then s.raised .noFrame
     else if s.fcb.hlen.toNat < n.toNat + 2 then s.raised .extractRange
     else s.answered (BitVec.ofInt 32 (s16 (s.fcb.leNat n.toNat))))) ∧
  (∀ n : Byte, decode (0x23#8 ++ 0#16 ++ n) = .ok (.rdS16be n) ∧ decode (0x24#8 ++ 0#16 ++ n) = .ok (.rdS16le n)) ∧
  IllegalWhenReserved 0x23#8 0x00FFFF00#32 ∧ IllegalWhenReserved 0x24#8 0x00FFFF00#32

/-- R177 and R182: BSWAP16 exchanges the two bytes, and applied to the low half of its own result it gives the value
back. -/
def Obligations.ByteSwapIsInvolution : Prop :=
  (∀ (v : Half) (s : State),
    exec (.bswap16 v) s = .next (s.answered (BitVec.ofNat 32 (v.toNat % 256 * 256 + v.toNat / 256)))) ∧
  (∀ (v : Half) (s : State), ∃ t u, exec (.bswap16 v) s = .next t ∧
    exec (.bswap16 (t.fcb.result.setWidth 16)) t = .next u ∧ u.fcb.result.toNat = v.toNat) ∧
  (∀ v : Half, decode (0x25#8 ++ 0#8 ++ v) = .ok (.bswap16 v)) ∧ IllegalWhenReserved 0x25#8 0x00FF0000#32

/-- R183: RD_U16LE is BSWAP16 of RD_U16BE's result, and RD_S16BE the sign extension of it. -/
def Obligations.ReadersAgree : Prop :=
  ∀ (n : Byte) (s : State), s.fcb.frameOk = true → n.toNat + 2 ≤ s.fcb.hlen.toNat →
    ∃ be le swapped signed,
      exec (.rdU16be n) s = .next be ∧ exec (.rdU16le n) s = .next le ∧ exec (.rdS16be n) s = .next signed ∧
      exec (.bswap16 (be.fcb.result.setWidth 16)) be = .next swapped ∧ swapped.fcb.result = le.fcb.result ∧
      signed.fcb.result = (be.fcb.result.setWidth 16).signExtend 32 ∧ be.fcb.result.toNat < 65536

/-- R178: RD_CELL reads the big-endian field of cell i + 1, and refuses an index above 31 first. -/
def Obligations.CellReaderResult : Prop :=
  (∀ (n : Byte) (s : State), exec (.rdCell n) s = .next
    (if 32 ≤ n.toNat then s.raised .badArgument
     else if s.fcb.frameOk = false then s.raised .noFrame
     else if s.fcb.hlen.toNat < 2 * n.toNat + 2 then s.raised .extractRange
     else s.answered (BitVec.ofNat 32 (s.fcb.beNat (2 * n.toNat))))) ∧
  (∀ n : Byte, decode (0x26#8 ++ 0#16 ++ n) = .ok (.rdCell n)) ∧ IllegalWhenReserved 0x26#8 0x00FFFF00#32

/-! ### Status decode -/

/-- R201 to R207: the fault tests of bits 0 to 6, at the opcodes 0x30 + j. -/
def Obligations.FaultTestsOfBits0To6 : Prop :=
  ∀ p ∈ [(0, Instr.ftCellOv), (1, Instr.ftCellUv), (2, Instr.ftPackOv), (3, Instr.ftPackUv), (4, Instr.ftChgOt),
      (5, Instr.ftChgUt), (6, Instr.ftDsgOt)],
    (∀ (v : Half) (s : State), exec (p.2 v) s = .next (s.answered (BitVec.ofNat 32 (v.toNat / 2 ^ p.1 % 2)))) ∧
    (∀ v : Half, decode (BitVec.ofNat 8 (0x30 + p.1) ++ 0#8 ++ v) = .ok (p.2 v)) ∧
    IllegalWhenReserved (BitVec.ofNat 8 (0x30 + p.1)) 0x00FF0000#32

/-- R208 to R213: the fault tests of bits 7 to 12, at the opcodes 0x30 + j. -/
def Obligations.FaultTestsOfBits7To12 : Prop :=
  ∀ p ∈ [(7, Instr.ftDsgUt), (8, Instr.ftChgOc), (9, Instr.ftDsgOc), (10, Instr.ftShort), (11, Instr.ftIcErr),
      (12, Instr.ftMosLock)],
    (∀ (v : Half) (s : State), exec (p.2 v) s = .next (s.answered (BitVec.ofNat 32 (v.toNat / 2 ^ p.1 % 2)))) ∧
    (∀ v : Half, decode (BitVec.ofNat 8 (0x30 + p.1) ++ 0#8 ++ v) = .ok (p.2 v)) ∧
    IllegalWhenReserved (BitVec.ofNat 8 (0x30 + p.1)) 0x00FF0000#32

/-- R214: DATE answers year << 16 | month << 8 | day, with no range check. -/
def Obligations.DateResult : Prop :=
  (∀ (v : Half) (s : State), exec (.date v) s = .next (s.answered
    (BitVec.ofNat 32 ((v.toNat / 512 + 2000) * 65536 + v.toNat / 32 % 16 * 256 + v.toNat % 32)))) ∧
  (∀ v : Half, decode (0x40#8 ++ 0#8 ++ v) = .ok (.date v)) ∧ IllegalWhenReserved 0x40#8 0x00FF0000#32

/-- R215: TEMP_DK reads sensor j in deci-kelvin, with the checks in the rule's order. -/
def Obligations.TemperatureKelvinResult : Prop :=
  (∀ (n : Byte) (s : State), exec (.tempDk n) s = .next
    (if 8 ≤ n.toNat then s.raised .badArgument
     else if s.fcb.frameOk = false then s.raised .noFrame
     else if s.fcb.hlen.toNat < 23 then s.raised .extractRange
     else if (s.fcb.rxpay 22).toNat ≤ n.toNat then s.raised .extractRange
     else if s.fcb.hlen.toNat < 25 + 2 * n.toNat then s.raised .extractRange
     else s.answered (BitVec.ofNat 32 (s.fcb.beNat (23 + 2 * n.toNat))))) ∧
  (∀ n : Byte, decode (0x41#8 ++ 0#16 ++ n) = .ok (.tempDk n)) ∧ IllegalWhenReserved 0x41#8 0x00FFFF00#32

/-- R216 and R217: TEMP_DC and K2DC answer the deci-kelvin value less 2731 as a signed 32-bit number. -/
def Obligations.TemperatureCelsiusResult : Prop :=
  (∀ (n : Byte) (s : State), exec (.tempDc n) s = .next
    (if 8 ≤ n.toNat then s.raised .badArgument
     else if s.fcb.frameOk = false then s.raised .noFrame
     else if s.fcb.hlen.toNat < 23 then s.raised .extractRange
     else if (s.fcb.rxpay 22).toNat ≤ n.toNat then s.raised .extractRange
     else if s.fcb.hlen.toNat < 25 + 2 * n.toNat then s.raised .extractRange
     else s.answered (BitVec.ofInt 32 ((s.fcb.beNat (23 + 2 * n.toNat) : Int) - 2731)))) ∧
  (∀ (v : Half) (s : State), ∃ t, exec (.k2dc v) s = .next t ∧ t = s.answered t.fcb.result ∧
    t.fcb.result.toInt = (v.toNat : Int) - 2731) ∧
  (∀ n : Byte, decode (0x42#8 ++ 0#16 ++ n) = .ok (.tempDc n)) ∧ IllegalWhenReserved 0x42#8 0x00FFFF00#32 ∧
  (∀ v : Half, decode (0x43#8 ++ 0#8 ++ v) = .ok (.k2dc v)) ∧ IllegalWhenReserved 0x43#8 0x00FF0000#32

/-- R219 with R218: BAL_BIT answers bit c − 1 of balanceHigh << 16 | balanceLow. -/
def Obligations.BalanceBitResult : Prop :=
  (∀ (n : Byte) (s : State), exec (.balBit n) s = .next
    (if n.toNat < 1 ∨ 32 < n.toNat then s.raised .badArgument
     else if s.fcb.frameOk = false then s.raised .noFrame
     else if s.fcb.hlen.toNat < 16 then s.raised .extractRange
     else s.answered (BitVec.ofNat 32 ((s.fcb.beNat 14 * 65536 + s.fcb.beNat 12) / 2 ^ (n.toNat - 1) % 2)))) ∧
  (∀ n : Byte, decode (0x44#8 ++ 0#16 ++ n) = .ok (.balBit n)) ∧ IllegalWhenReserved 0x44#8 0x00FFFF00#32

/-- R220: BAL_STR writes one character per cell, at most 32, and the terminator, to OUTSTR and to no other byte of
memory. -/
def Obligations.BalanceStringResult : Prop :=
  (∀ s : State, s.fcb.frameOk = false → exec .balStr s = .next (s.raised .noFrame)) ∧
  (∀ s : State, s.fcb.frameOk = true → s.fcb.hlen.toNat < 22 → exec .balStr s = .next (s.raised .extractRange)) ∧
  (∀ s : State, s.fcb.frameOk = true → 22 ≤ s.fcb.hlen.toNat → s.fcb.memCanonical →
    let n := min (s.fcb.rxpay 21).toNat 32
    ∃ t, exec .balStr s = .next t ∧
      t = { s with fcb := { s.fcb with mem := t.fcb.mem, result := BitVec.ofNat 32 n, cerr := .ok } } ∧
      (∀ k < n, t.fcb.outstr k =
        if (s.fcb.beNat 14 * 65536 + s.fcb.beNat 12) / 2 ^ k % 2 = 1 then 0x31#8 else 0x30#8) ∧
      t.fcb.outstr n = 0x00#8 ∧
      (∀ a, a < 0x100 ∨ 0x100 + n + 1 ≤ a → t.fcb.mem.read a = s.fcb.mem.read a)) ∧
  decode 0x45000000#32 = .ok .balStr ∧ IllegalWhenReserved 0x45#8 0x00FFFFFF#32

/-- R221: MOS_PAY writes 0 and the inverted flags to TXPAY[0] and TXPAY[1], and no other byte of memory. -/
def Obligations.MosfetPayloadResult : Prop :=
  (∀ (b : Byte) (s : State), s.fcb.memCanonical →
    ∃ t, exec (.mosPay b) s = .next t ∧
      t = { s with
        fcb := { s.fcb with mem := t.fcb.mem, result := BitVec.ofNat 32 (3 - b.toNat % 4), cerr := .ok } } ∧
      t.fcb.txpay 0 = 0x00#8 ∧ (t.fcb.txpay 1).toNat = 3 - b.toNat % 4 ∧
      (∀ a, a ≠ 0x040 → a ≠ 0x041 → t.fcb.mem.read a = s.fcb.mem.read a)) ∧
  (∀ b : Byte, decode (0x46#8 ++ 0#16 ++ b) = .ok (.mosPay b)) ∧ IllegalWhenReserved 0x46#8 0x00FFFF00#32

/-! ### Timing guard -/

/-- R253 and R252: the elapsed time is NOW less the selected timestamp modulo 2^32; a TG_WAIT that waits loads WAITREM
and sets BUSY, and one that does not wait completes at once; no host write but one to CMD changes a wait in progress; and
the wait ends after exactly DELAY − e ticks, at NOW = L + DELAY modulo 2^32, with BUSY = 1 at every tick before. -/
def Obligations.TimedWaitRunsExactly : Prop :=
  (∀ s : State,
    let stamp := if s.fcb.sharedTs = true then s.shcell else s.fcb.last
    let e := (s.now.toNat + 4294967296 - stamp.toNat) % 4294967296
    exec .tgWait s = .next
      (if e < s.fcb.delay.toNat then
        { s with fcb := { s.fcb with
            waitrem := BitVec.ofNat 32 (s.fcb.delay.toNat - e), busy := true,
            result := BitVec.ofNat 32 (s.fcb.delay.toNat - e) } }
      else { s with fcb := { s.fcb with waitrem := 0#32, result := 0#32, cerr := .ok } })) ∧
  (∀ (s t : State) (rest : List Event) (n off : Nat) (v : Word), off ≠ 0 →
    step { s with agenda := .access 0 (.write n (s.cfg.base + off) v) :: rest } = .next t →
    t.fcb.waitrem = s.fcb.waitrem ∧ t.fcb.busy = s.fcb.busy) ∧
  (∀ s t : State, s.fcb.busy = false → exec .tgWait s = .next t → t.fcb.busy = true →
    (∀ k < t.fcb.waitrem.toNat, (ticks k t).fcb.busy = true ∧ (ticks k t).fcb.waitrem.toNat = t.fcb.waitrem.toNat - k) ∧
    (ticks t.fcb.waitrem.toNat t).fcb.busy = false ∧ (ticks t.fcb.waitrem.toNat t).fcb.cerr = .ok ∧
    (ticks t.fcb.waitrem.toNat t).fcb.waitrem = 0#32 ∧
    (ticks t.fcb.waitrem.toNat t).now = (if s.fcb.sharedTs = true then s.shcell else s.fcb.last) + s.fcb.delay) ∧
  decode 0x50000000#32 = .ok .tgWait ∧ IllegalWhenReserved 0x50#8 0x00FFFFFF#32

/-- R250 and R254: a tick advances NOW modulo 2^32 for the whole bus, and in every instance with BUSY = 1 counts WAITREM
down; the tick that brings it to 0 clears BUSY and CERR. No step but a tick and the assertion of reset writes NOW. -/
def Obligations.TickAdvancesEveryInstance : Prop :=
  (∀ (s : State) (rest : List Event), s.resetLine = false → s.everyFcb Fcb.waitInv →
    ∃ t, step { s with agenda := .tick :: rest } = .next t ∧
      t.now.toNat = (s.now.toNat + 1) % 4294967296 ∧ t.shcell = s.shcell ∧ t.cfg = s.cfg ∧ t.agenda = rest ∧
      t.resetLine = false ∧ t.busReply = s.busReply ∧ t.peers.length = s.peers.length ∧
      (∀ p ∈ (s.fcb, t.fcb) :: s.peers.zip t.peers,
        p.2 =
          if p.1.busy = false then p.1
          else if p.1.waitrem.toNat = 1 then { p.1 with waitrem := 0#32, busy := false, cerr := .ok }
          else { p.1 with waitrem := BitVec.ofNat 32 (p.1.waitrem.toNat - 1) })) ∧
  (∀ (e : Event) (s t : State) (rest : List Event), step { s with agenda := e :: rest } = .next t →
    e ≠ .tick → e ≠ .reset true → t.now = s.now)

/-- R255 with R251: TG_MARK writes NOW to the selected timestamp and to RESULT. -/
def Obligations.MarkRecordsNow : Prop :=
  (∀ s : State, exec .tgMark s = .next
    (if s.fcb.sharedTs = true then
      { s with shcell := s.now, fcb := { s.fcb with result := s.now, cerr := .ok } }
    else { s with fcb := { s.fcb with last := s.now, result := s.now, cerr := .ok } })) ∧
  decode 0x51000000#32 = .ok .tgMark ∧ IllegalWhenReserved 0x51#8 0x00FFFFFF#32

/-- The guarantee of R258 for one mark and the next wait: m ticks, fewer than 2^32, after a TG_MARK, a TG_WAIT on the same
timestamp ends at least DELAY ticks after the mark. -/
def Obligations.TransactionsKeepMinimumDelay : Prop :=
  ∀ (s marked waiting : State) (m : Nat), s.fcb.busy = false → m < 4294967296 →
    exec .tgMark s = .next marked → exec .tgWait (ticks m marked) = .next waiting →
    (ticks waiting.fcb.waitrem.toNat waiting).fcb.busy = false ∧
    s.fcb.delay.toNat ≤ m + waiting.fcb.waitrem.toNat ∧
    (ticks waiting.fcb.waitrem.toNat waiting).now = s.now + BitVec.ofNat 32 (m + waiting.fcb.waitrem.toNat)

/-! ### The register window -/

/-- R62 and R63: an access with a reserved offset, the wrong width, a misaligned register offset or a write to a read-only
place is answered with a bus error and changes no state of the bus. That the error is recorded in busReply and the step
goes on is the model's form of R291 (logs 5 and 15), and that it is so while reset is asserted is log 8. -/
def Obligations.BusErrorsChangeNothing : Prop :=
  ∀ (s : State) (rest : List Event) (n off : Nat) (v : Word), off < 0x200 →
    let isReg := off < 0x038
    let isBuf := (0x040 ≤ off ∧ off ≤ 0x05D) ∨ (0x080 ≤ off ∧ off ≤ 0x0A4) ∨ (0x0C0 ≤ off ∧ off ≤ 0x120)
    let allowed := (isReg ∧ n = 4 ∧ off % 4 = 0) ∨ (isBuf ∧ n = 1)
    let hostMayWrite := off ∈ [0x000, 0x00C, 0x010, 0x018, 0x01C] ∨ (0x040 ≤ off ∧ off ≤ 0x05D)
    (¬ allowed → ∃ e, step { s with agenda := .access 0 (.read n (s.cfg.base + off)) :: rest } =
      .next { s with agenda := rest, busReply := .error e }) ∧
    (¬ (allowed ∧ hostMayWrite) → ∃ e, step { s with agenda := .access 0 (.write n (s.cfg.base + off) v) :: rest } =
      .next { s with agenda := rest, busReply := .error e })

/-- R64 and the register layouts of R22 to R45: a read changes nothing and answers the current value of the register, its
reserved bits 0, or of the buffer byte. -/
def Obligations.ReadsAnswerAndChangeNothing : Prop :=
  ∀ (s : State) (rest : List Event),
    let flag : Bool → Nat := fun b => if b = true then 1 else 0
    (∀ p ∈ [(0x000, s.fcb.cmd.toNat),
        (0x004, s.fcb.cerr.code.toNat * 256 + flag s.fcb.extraBytes * 16 + flag s.fcb.cmdDropped * 8
          + flag s.fcb.txOk * 4 + flag s.fcb.frameOk * 2 + flag s.fcb.busy),
        (0x008, s.fcb.result.toNat), (0x00C, flag s.fcb.destEn * 2 + flag s.fcb.sharedTs),
        (0x010, s.fcb.delay.toNat), (0x014, s.now.toNat), (0x018, s.fcb.last.toNat), (0x01C, s.shcell.toNat),
        (0x020, s.fcb.waitrem.toNat), (0x024, s.fcb.txlen.toNat),
        (0x028, s.fcb.hlen.toNat * 16777216 + s.fcb.hrc.toNat * 65536 + s.fcb.hcmd.toNat * 256 + s.fcb.hstart.toNat),
        (0x02C, s.fcb.ckcalc.toNat * 65536 + s.fcb.ckrx.toNat),
        (0x030, s.fcb.dpos.toNat * 256 + s.fcb.dstate.code.toNat * 16 + s.fcb.dcode.code.toNat),
        (0x034, s.fcb.stopb.toNat * 65536 + s.fcb.ck1.toNat * 256 + s.fcb.ck0.toNat)],
      step { s with agenda := .access 0 (.read 4 (s.cfg.base + p.1)) :: rest } =
        .next { s with agenda := rest, busReply := .word (BitVec.ofNat 32 p.2) }) ∧
    (∀ off, (0x040 ≤ off ∧ off ≤ 0x05D) ∨ (0x080 ≤ off ∧ off ≤ 0x0A4) ∨ (0x0C0 ≤ off ∧ off ≤ 0x120) →
      step { s with agenda := .access 0 (.read 1 (s.cfg.base + off)) :: rest } =
        .next { s with agenda := rest, busReply := .byte (s.fcb.mem.read off) })

/-- R64 and R32 to R37: a host write of CTRL, DELAY, LAST, SHLAST or a byte of TXPAY stores the value (CTRL its bits 1:0),
and nothing else. -/
def Obligations.HostWritesStore : Prop :=
  ∀ (s : State) (rest : List Event) (v : Word), s.resetLine = false →
    let write : Nat → Nat → Host.Outcome State Fault Refusal := fun n off =>
      step { s with agenda := .access 0 (.write n (s.cfg.base + off) v) :: rest }
    let stored : Fcb → State := fun f => { s with agenda := rest, busReply := .written, fcb := f }
    write 4 0x00C = .next (stored { s.fcb with
      sharedTs := decide (v.toNat % 2 = 1), destEn := decide (v.toNat / 2 % 2 = 1) }) ∧
    write 4 0x010 = .next (stored { s.fcb with delay := v }) ∧
    write 4 0x018 = .next (stored { s.fcb with last := v }) ∧
    write 4 0x01C = .next { stored s.fcb with shcell := v } ∧
    (s.fcb.memCanonical → ∀ k < 30, ∃ t, write 1 (0x040 + k) = .next t ∧
      t = stored { s.fcb with mem := t.fcb.mem } ∧ (t.fcb.txpay k).toNat = v.toNat % 256 ∧
      ∀ a, a ≠ 0x040 + k → t.fcb.mem.read a = s.fcb.mem.read a)

/-! ### Whole-machine rules -/

/-- Every command completes (R291, "An error stops no agent") and acts on its own instance and the timestamp alone: NOW,
the other instances, the configuration and the agents are untouched, and only TG_MARK with SHARED_TS = 1 writes SHCELL
(R34, R257, R295). -/
def Obligations.CommandsActOnTheirOwnInstance : Prop :=
  ∀ (i : Instr) (s : State), ∃ t, exec i s = .next t ∧
    t = { s with fcb := t.fcb, shcell := t.shcell } ∧
    (t.shcell = s.shcell ∨ (i = .tgMark ∧ s.fcb.sharedTs = true ∧ t.shcell = s.now))

/-- A step of one client's host leaves every other client's instance as it was (R295). The second clause is the model's
choice and no rule of the spec: a client is a whole FCB instance with a host of its own (DEDUCED, log 14), under the one
State.cfg of the bus (DESIGN CHOICE, log 21), so a step of its host is to its own instance what a step of client 0's host
is to client 0's: the same access on the bus with the two instances exchanged, and the instances put back. -/
def Obligations.ClientsDoNotTouchEachOther : Prop :=
  (∀ (k j : Nat) (a : Access) (s t : State) (rest : List Event),
    step { s with agenda := .access k a :: rest } = .next t → j ≠ k →
    (t.fcb :: t.peers)[j]? = (s.fcb :: s.peers)[j]? ∧ t.now = s.now ∧ t.peers.length = s.peers.length) ∧
  (∀ (j : Nat) (p : Fcb) (a : Access) (s : State) (rest : List Event), s.peers[j]? = some p →
    step { s with agenda := .access (j + 1) a :: rest } =
      match step { s with fcb := p, peers := s.peers.set j s.fcb, agenda := .access 0 a :: rest } with
      | .next t => .next { t with fcb := s.fcb, peers := s.peers.set j t.fcb }
      | .fault e => .fault e
      | .refused e => .refused e)

/-- R26 to R29, R256, R32 and R35: which commands set and clear FRAME_OK, TX_OK and the sticky flags, and that no command
but SRST changes DELAY or CTRL, and none but TG_MARK and SRST changes LAST. -/
def Obligations.RegistersHaveTheirWriters : Prop :=
  ∀ (i : Instr) (s t : State), exec i s = .next t →
    (t.fcb.frameOk = s.fcb.frameOk ∨ ((∃ b, i = .decByte b) ∧ t.fcb.frameOk = true ∧ t.fcb.dcode = .ok) ∨
      ((i = .decStart ∨ i = .srst) ∧ t.fcb.frameOk = false)) ∧
    (t.fcb.txOk = s.fcb.txOk ∨ ((∃ d k l, i = .encode d k l) ∧ (t.fcb.txOk = true ↔ t.fcb.cerr = .ok)) ∨
      (i = .srst ∧ t.fcb.txOk = false)) ∧
    (t.fcb.cmdDropped = s.fcb.cmdDropped ∨ ((i = .clrerr ∨ i = .srst) ∧ t.fcb.cmdDropped = false)) ∧
    (t.fcb.extraBytes = s.fcb.extraBytes ∨
      ((∃ b, i = .decByte b) ∧ (s.fcb.dstate = .idle ∨ s.fcb.dstate = .done) ∧ t.fcb.extraBytes = true) ∨
      ((i = .clrerr ∨ i = .srst) ∧ t.fcb.extraBytes = false)) ∧
    (i ≠ .srst →
      t.fcb.delay = s.fcb.delay ∧ t.fcb.sharedTs = s.fcb.sharedTs ∧ t.fcb.destEn = s.fcb.destEn ∧
      (i ≠ .tgMark → t.fcb.last = s.fcb.last))

/-- R285 (with R28 and R29): in a step of any agent the sticky flags are set by their events only, a command word other
than SRST's while BUSY = 1 and a DEC_BYTE in IDLE or DONE, and cleared only by CLRERR, SRST and reset. -/
def Obligations.StickyFlagsHaveTheirEvents : Prop :=
  ∀ (e : Event) (s t : State) (rest : List Event), step { s with agenda := e :: rest } = .next t →
    let cleared := e = .reset true ∨ ∃ w, e = .access 0 (.write 4 s.cfg.base w) ∧
      (decode w = .ok .clrerr ∨ decode w = .ok .srst)
    (s.fcb.cmdDropped = false → t.fcb.cmdDropped = true →
      s.fcb.busy = true ∧ ∃ w, w ≠ 0x01000000#32 ∧ e = .access 0 (.write 4 s.cfg.base w)) ∧
    (s.fcb.extraBytes = false → t.fcb.extraBytes = true →
      (s.fcb.dstate = .idle ∨ s.fcb.dstate = .done) ∧
        ∃ b : Byte, e = .access 0 (.write 4 s.cfg.base (encode (.decByte b)))) ∧
    (s.fcb.cmdDropped = true → t.fcb.cmdDropped = false → cleared) ∧
    (s.fcb.extraBytes = true → t.fcb.extraBytes = false → cleared)

/-- R281 and R31: a command that ends with an error code has written CERR and nothing else, but for ENCODE's TX_OK and
TXLEN and the RESULT of 0 of CKSUM and ENCODE with MALFORMED_LENGTH. -/
def Obligations.ErrorsLeaveStateUnchanged : Prop :=
  ∀ (i : Instr) (s t : State), exec i s = .next t → t.fcb.cerr ≠ .ok → i ≠ .tgWait →
    t = s.raised t.fcb.cerr ∨
    ((∃ a l, i = .cksum a l) ∧ t.fcb.cerr = .malformedLength ∧
      t = { s with fcb := { s.fcb with result := 0#32, cerr := .malformedLength } }) ∨
    ((∃ d k l, i = .encode d k l) ∧ t = { s with
      fcb := { s.fcb with
        txOk := false, txlen := 0#6, cerr := t.fcb.cerr,
        result := if t.fcb.cerr = .malformedLength then 0#32 else s.fcb.result } } ∧
      (t.fcb.cerr = .malformedLength ∨ t.fcb.cerr = .badArgument))

/-- R282: the recorded outcome of a frame is changed by DEC_START, DEC_BYTE, DEC_EOS and SRST only, and a finished frame's
by DEC_START and SRST only. -/
def Obligations.FrameOutcomeHasItsWriters : Prop :=
  ∀ (i : Instr) (s t : State), exec i s = .next t → i ≠ .decStart → i ≠ .srst →
    (s.fcb.dstate = .done → t.fcb.dcode = s.fcb.dcode ∧ t.fcb.dstate = .done ∧ t.fcb.frameOk = s.fcb.frameOk) ∧
    ((∀ b, i ≠ .decByte b) → i ≠ .decEos →
      t.fcb.dcode = s.fcb.dcode ∧ t.fcb.dstate = s.fcb.dstate ∧ t.fcb.dpos = s.fcb.dpos)

/-- The frame of the commands that only answer (CKSUM, the payload readers, the fault tests, DATE, TEMP_DK, TEMP_DC, K2DC,
BAL_BIT): RESULT and CERR may change, and nothing else, no byte of memory included. -/
def Obligations.AnsweringCommandsFrame : Prop :=
  ∀ (i : Instr) (s t : State), answersOnly i = true → exec i s = .next t →
    t = { s with fcb := { s.fcb with result := t.fcb.result, cerr := t.fcb.cerr } } ∧
    ∀ a, t.fcb.mem.read a = s.fcb.mem.read a

/-! ### Invariants -/

/-- State.reset, under every configuration with a client, meets every invariant below. -/
def Obligations.ResetMeetsInvariants : Prop :=
  ∀ cfg : Config, 1 ≤ cfg.nClients →
    (State.resetWith cfg).everyFcb (fun f => f.memCanonical ∧ f.memInBuffers ∧ f.waitInv ∧ f.decodeInv ∧
      f.frameInv cfg.wireCksumOrder ∧ f.txInv cfg.wireCksumOrder ∧ f.quiescent) ∧ (State.resetWith cfg).platformInv

/-- Every step keeps the canonical form of every instance's buffers (log 10). -/
def Obligations.StepKeepsMemoryCanonical : Prop :=
  ∀ s t : State, s.everyFcb Fcb.memCanonical → step s = .next t → t.everyFcb Fcb.memCanonical

/-- Every step keeps WAITREM at 0 exactly while BUSY = 0, in every instance (R41, R254). -/
def Obligations.StepKeepsWaitConsistent : Prop :=
  ∀ s t : State, s.everyFcb Fcb.waitInv → step s = .next t → t.everyFcb Fcb.waitInv

/-- Every step keeps the decoder's phases consistent in every instance (R45, R46, R26). -/
def Obligations.StepKeepsDecoderConsistent : Prop :=
  ∀ s t : State, s.everyFcb Fcb.decodeInv → step s = .next t → t.everyFcb Fcb.decodeInv

/-- Every step keeps the promise of FRAME_OK: the registers and RXPAY hold a good frame (R24, R26). -/
def Obligations.StepKeepsReceivedFrame : Prop :=
  ∀ s t : State, s.everyFcb (fun f => f.decodeInv ∧ f.frameInv s.cfg.wireCksumOrder) → step s = .next t →
    t.everyFcb (fun f => f.frameInv t.cfg.wireCksumOrder)

/-- Every step keeps the promise of TX_OK: TXFRAME holds a request frame, and TXLEN is 0 otherwise (R24, R27, R38). -/
def Obligations.StepKeepsTransmitFrame : Prop :=
  ∀ s t : State,
    s.everyFcb (fun f => f.memCanonical ∧ f.decodeInv ∧ f.txInv s.cfg.wireCksumOrder) → step s = .next t →
    t.everyFcb (fun f => f.txInv t.cfg.wireCksumOrder)

/-- Every step keeps the held bytes inside the four buffers of R61. -/
def Obligations.StepKeepsBuffersInPlace : Prop :=
  ∀ s t : State, s.everyFcb (fun f => f.decodeInv ∧ f.memInBuffers) → step s = .next t → t.everyFcb Fcb.memInBuffers

/-- Every step keeps the number of clients and, while reset is asserted, the reset values (R295, R320; log 8). -/
def Obligations.StepKeepsPlatform : Prop :=
  ∀ s t : State, s.platformInv → step s = .next t → t.platformInv ∧ t.cfg = s.cfg
end

