-- ==== Sys2Proof/Laws/State.lean ====
section
/-! SUPPORT. What each update of a state or of an instance leaves in each field, each true by rfl. -/

namespace Sys2Proof.Machine

/-! ### Updates of a state -/

@[simp] theorem State.withFcb_fcb (g : Fcb) (s : State) : (s.withFcb g).fcb = g := rfl
@[simp] theorem State.withFcb_peers (g : Fcb) (s : State) : (s.withFcb g).peers = s.peers := rfl
@[simp] theorem State.withFcb_now (g : Fcb) (s : State) : (s.withFcb g).now = s.now := rfl
@[simp] theorem State.withFcb_shcell (g : Fcb) (s : State) : (s.withFcb g).shcell = s.shcell := rfl
@[simp] theorem State.withFcb_resetLine (g : Fcb) (s : State) : (s.withFcb g).resetLine = s.resetLine := rfl
@[simp] theorem State.withFcb_cfg (g : Fcb) (s : State) : (s.withFcb g).cfg = s.cfg := rfl
@[simp] theorem State.withFcb_agenda (g : Fcb) (s : State) : (s.withFcb g).agenda = s.agenda := rfl
@[simp] theorem State.withFcb_busReply (g : Fcb) (s : State) : (s.withFcb g).busReply = s.busReply := rfl

@[simp] theorem State.withReply_fcb (r : BusReply) (s : State) : (s.withReply r).fcb = s.fcb := rfl
@[simp] theorem State.withReply_peers (r : BusReply) (s : State) : (s.withReply r).peers = s.peers := rfl
@[simp] theorem State.withReply_now (r : BusReply) (s : State) : (s.withReply r).now = s.now := rfl
@[simp] theorem State.withReply_shcell (r : BusReply) (s : State) : (s.withReply r).shcell = s.shcell := rfl
@[simp] theorem State.withReply_resetLine (r : BusReply) (s : State) : (s.withReply r).resetLine = s.resetLine := rfl
@[simp] theorem State.withReply_cfg (r : BusReply) (s : State) : (s.withReply r).cfg = s.cfg := rfl
@[simp] theorem State.withReply_agenda (r : BusReply) (s : State) : (s.withReply r).agenda = s.agenda := rfl
@[simp] theorem State.withReply_busReply (r : BusReply) (s : State) : (s.withReply r).busReply = r := rfl

@[simp] theorem State.tick_fcb (s : State) : (s.tick).fcb = s.fcb.tick := rfl
@[simp] theorem State.tick_peers (s : State) : (s.tick).peers = s.peers.map Fcb.tick := rfl
@[simp] theorem State.tick_now (s : State) : (s.tick).now = s.now + 1#32 := rfl
@[simp] theorem State.tick_shcell (s : State) : (s.tick).shcell = s.shcell := rfl
@[simp] theorem State.tick_resetLine (s : State) : (s.tick).resetLine = s.resetLine := rfl
@[simp] theorem State.tick_cfg (s : State) : (s.tick).cfg = s.cfg := rfl
@[simp] theorem State.tick_agenda (s : State) : (s.tick).agenda = s.agenda := rfl
@[simp] theorem State.tick_busReply (s : State) : (s.tick).busReply = s.busReply := rfl

@[simp] theorem State.assertReset_fcb (s : State) : (s.assertReset).fcb = Fcb.reset := rfl
@[simp] theorem State.assertReset_peers (s : State) : (s.assertReset).peers = s.peers.map (fun _ => Fcb.reset) := rfl
@[simp] theorem State.assertReset_now (s : State) : (s.assertReset).now = 0#32 := rfl
@[simp] theorem State.assertReset_shcell (s : State) : (s.assertReset).shcell = 0#32 := rfl
@[simp] theorem State.assertReset_resetLine (s : State) : (s.assertReset).resetLine = true := rfl
@[simp] theorem State.assertReset_cfg (s : State) : (s.assertReset).cfg = s.cfg := rfl
@[simp] theorem State.assertReset_agenda (s : State) : (s.assertReset).agenda = s.agenda := rfl
@[simp] theorem State.assertReset_busReply (s : State) : (s.assertReset).busReply = s.busReply := rfl

@[simp] theorem State.pushCommand_fcb (w : Word) (s : State) : (s.pushCommand w).fcb = s.fcb := rfl
@[simp] theorem State.pushCommand_peers (w : Word) (s : State) : (s.pushCommand w).peers = s.peers := rfl
@[simp] theorem State.pushCommand_now (w : Word) (s : State) : (s.pushCommand w).now = s.now := rfl
@[simp] theorem State.pushCommand_shcell (w : Word) (s : State) : (s.pushCommand w).shcell = s.shcell := rfl
@[simp] theorem State.pushCommand_resetLine (w : Word) (s : State) : (s.pushCommand w).resetLine = s.resetLine := rfl
@[simp] theorem State.pushCommand_cfg (w : Word) (s : State) : (s.pushCommand w).cfg = s.cfg := rfl
@[simp] theorem State.pushCommand_agenda (w : Word) (s : State) : (s.pushCommand w).agenda = .access 0 (.write 4 s.cfg.base w) :: s.agenda := rfl
@[simp] theorem State.pushCommand_busReply (w : Word) (s : State) : (s.pushCommand w).busReply = s.busReply := rfl

@[simp] theorem State.swapClient_zero (s : State) : s.swapClient 0 = s := rfl

/-! ### Updates of an instance -/

@[simp] theorem Fcb.complete_cmd (f : Fcb) : (f.complete).cmd = f.cmd := rfl
@[simp] theorem Fcb.complete_busy (f : Fcb) : (f.complete).busy = f.busy := rfl
@[simp] theorem Fcb.complete_frameOk (f : Fcb) : (f.complete).frameOk = f.frameOk := rfl
@[simp] theorem Fcb.complete_txOk (f : Fcb) : (f.complete).txOk = f.txOk := rfl
@[simp] theorem Fcb.complete_cmdDropped (f : Fcb) : (f.complete).cmdDropped = f.cmdDropped := rfl
@[simp] theorem Fcb.complete_extraBytes (f : Fcb) : (f.complete).extraBytes = f.extraBytes := rfl
@[simp] theorem Fcb.complete_cerr (f : Fcb) : (f.complete).cerr = .ok := rfl
@[simp] theorem Fcb.complete_result (f : Fcb) : (f.complete).result = f.result := rfl
@[simp] theorem Fcb.complete_sharedTs (f : Fcb) : (f.complete).sharedTs = f.sharedTs := rfl
@[simp] theorem Fcb.complete_destEn (f : Fcb) : (f.complete).destEn = f.destEn := rfl
@[simp] theorem Fcb.complete_delay (f : Fcb) : (f.complete).delay = f.delay := rfl
@[simp] theorem Fcb.complete_last (f : Fcb) : (f.complete).last = f.last := rfl
@[simp] theorem Fcb.complete_waitrem (f : Fcb) : (f.complete).waitrem = f.waitrem := rfl
@[simp] theorem Fcb.complete_mem (f : Fcb) : (f.complete).mem = f.mem := rfl
@[simp] theorem Fcb.complete_txlen (f : Fcb) : (f.complete).txlen = f.txlen := rfl
@[simp] theorem Fcb.complete_hstart (f : Fcb) : (f.complete).hstart = f.hstart := rfl
@[simp] theorem Fcb.complete_hcmd (f : Fcb) : (f.complete).hcmd = f.hcmd := rfl
@[simp] theorem Fcb.complete_hrc (f : Fcb) : (f.complete).hrc = f.hrc := rfl
@[simp] theorem Fcb.complete_hlen (f : Fcb) : (f.complete).hlen = f.hlen := rfl
@[simp] theorem Fcb.complete_ck0 (f : Fcb) : (f.complete).ck0 = f.ck0 := rfl
@[simp] theorem Fcb.complete_ck1 (f : Fcb) : (f.complete).ck1 = f.ck1 := rfl
@[simp] theorem Fcb.complete_stopb (f : Fcb) : (f.complete).stopb = f.stopb := rfl
@[simp] theorem Fcb.complete_ckrx (f : Fcb) : (f.complete).ckrx = f.ckrx := rfl
@[simp] theorem Fcb.complete_ckcalc (f : Fcb) : (f.complete).ckcalc = f.ckcalc := rfl
@[simp] theorem Fcb.complete_dcode (f : Fcb) : (f.complete).dcode = f.dcode := rfl
@[simp] theorem Fcb.complete_dstate (f : Fcb) : (f.complete).dstate = f.dstate := rfl
@[simp] theorem Fcb.complete_dpos (f : Fcb) : (f.complete).dpos = f.dpos := rfl

@[simp] theorem Fcb.raise_cmd (e : ErrCode) (f : Fcb) : (f.raise e).cmd = f.cmd := rfl
@[simp] theorem Fcb.raise_busy (e : ErrCode) (f : Fcb) : (f.raise e).busy = f.busy := rfl
@[simp] theorem Fcb.raise_frameOk (e : ErrCode) (f : Fcb) : (f.raise e).frameOk = f.frameOk := rfl
@[simp] theorem Fcb.raise_txOk (e : ErrCode) (f : Fcb) : (f.raise e).txOk = f.txOk := rfl
@[simp] theorem Fcb.raise_cmdDropped (e : ErrCode) (f : Fcb) : (f.raise e).cmdDropped = f.cmdDropped := rfl
@[simp] theorem Fcb.raise_extraBytes (e : ErrCode) (f : Fcb) : (f.raise e).extraBytes = f.extraBytes := rfl
@[simp] theorem Fcb.raise_cerr (e : ErrCode) (f : Fcb) : (f.raise e).cerr = e := rfl
@[simp] theorem Fcb.raise_result (e : ErrCode) (f : Fcb) : (f.raise e).result = f.result := rfl
@[simp] theorem Fcb.raise_sharedTs (e : ErrCode) (f : Fcb) : (f.raise e).sharedTs = f.sharedTs := rfl
@[simp] theorem Fcb.raise_destEn (e : ErrCode) (f : Fcb) : (f.raise e).destEn = f.destEn := rfl
@[simp] theorem Fcb.raise_delay (e : ErrCode) (f : Fcb) : (f.raise e).delay = f.delay := rfl
@[simp] theorem Fcb.raise_last (e : ErrCode) (f : Fcb) : (f.raise e).last = f.last := rfl
@[simp] theorem Fcb.raise_waitrem (e : ErrCode) (f : Fcb) : (f.raise e).waitrem = f.waitrem := rfl
@[simp] theorem Fcb.raise_mem (e : ErrCode) (f : Fcb) : (f.raise e).mem = f.mem := rfl
@[simp] theorem Fcb.raise_txlen (e : ErrCode) (f : Fcb) : (f.raise e).txlen = f.txlen := rfl
@[simp] theorem Fcb.raise_hstart (e : ErrCode) (f : Fcb) : (f.raise e).hstart = f.hstart := rfl
@[simp] theorem Fcb.raise_hcmd (e : ErrCode) (f : Fcb) : (f.raise e).hcmd = f.hcmd := rfl
@[simp] theorem Fcb.raise_hrc (e : ErrCode) (f : Fcb) : (f.raise e).hrc = f.hrc := rfl
@[simp] theorem Fcb.raise_hlen (e : ErrCode) (f : Fcb) : (f.raise e).hlen = f.hlen := rfl
@[simp] theorem Fcb.raise_ck0 (e : ErrCode) (f : Fcb) : (f.raise e).ck0 = f.ck0 := rfl
@[simp] theorem Fcb.raise_ck1 (e : ErrCode) (f : Fcb) : (f.raise e).ck1 = f.ck1 := rfl
@[simp] theorem Fcb.raise_stopb (e : ErrCode) (f : Fcb) : (f.raise e).stopb = f.stopb := rfl
@[simp] theorem Fcb.raise_ckrx (e : ErrCode) (f : Fcb) : (f.raise e).ckrx = f.ckrx := rfl
@[simp] theorem Fcb.raise_ckcalc (e : ErrCode) (f : Fcb) : (f.raise e).ckcalc = f.ckcalc := rfl
@[simp] theorem Fcb.raise_dcode (e : ErrCode) (f : Fcb) : (f.raise e).dcode = f.dcode := rfl
@[simp] theorem Fcb.raise_dstate (e : ErrCode) (f : Fcb) : (f.raise e).dstate = f.dstate := rfl
@[simp] theorem Fcb.raise_dpos (e : ErrCode) (f : Fcb) : (f.raise e).dpos = f.dpos := rfl

@[simp] theorem Fcb.answer_cmd (v : Word) (f : Fcb) : (f.answer v).cmd = f.cmd := rfl
@[simp] theorem Fcb.answer_busy (v : Word) (f : Fcb) : (f.answer v).busy = f.busy := rfl
@[simp] theorem Fcb.answer_frameOk (v : Word) (f : Fcb) : (f.answer v).frameOk = f.frameOk := rfl
@[simp] theorem Fcb.answer_txOk (v : Word) (f : Fcb) : (f.answer v).txOk = f.txOk := rfl
@[simp] theorem Fcb.answer_cmdDropped (v : Word) (f : Fcb) : (f.answer v).cmdDropped = f.cmdDropped := rfl
@[simp] theorem Fcb.answer_extraBytes (v : Word) (f : Fcb) : (f.answer v).extraBytes = f.extraBytes := rfl
@[simp] theorem Fcb.answer_cerr (v : Word) (f : Fcb) : (f.answer v).cerr = .ok := rfl
@[simp] theorem Fcb.answer_result (v : Word) (f : Fcb) : (f.answer v).result = v := rfl
@[simp] theorem Fcb.answer_sharedTs (v : Word) (f : Fcb) : (f.answer v).sharedTs = f.sharedTs := rfl
@[simp] theorem Fcb.answer_destEn (v : Word) (f : Fcb) : (f.answer v).destEn = f.destEn := rfl
@[simp] theorem Fcb.answer_delay (v : Word) (f : Fcb) : (f.answer v).delay = f.delay := rfl
@[simp] theorem Fcb.answer_last (v : Word) (f : Fcb) : (f.answer v).last = f.last := rfl
@[simp] theorem Fcb.answer_waitrem (v : Word) (f : Fcb) : (f.answer v).waitrem = f.waitrem := rfl
@[simp] theorem Fcb.answer_mem (v : Word) (f : Fcb) : (f.answer v).mem = f.mem := rfl
@[simp] theorem Fcb.answer_txlen (v : Word) (f : Fcb) : (f.answer v).txlen = f.txlen := rfl
@[simp] theorem Fcb.answer_hstart (v : Word) (f : Fcb) : (f.answer v).hstart = f.hstart := rfl
@[simp] theorem Fcb.answer_hcmd (v : Word) (f : Fcb) : (f.answer v).hcmd = f.hcmd := rfl
@[simp] theorem Fcb.answer_hrc (v : Word) (f : Fcb) : (f.answer v).hrc = f.hrc := rfl
@[simp] theorem Fcb.answer_hlen (v : Word) (f : Fcb) : (f.answer v).hlen = f.hlen := rfl
@[simp] theorem Fcb.answer_ck0 (v : Word) (f : Fcb) : (f.answer v).ck0 = f.ck0 := rfl
@[simp] theorem Fcb.answer_ck1 (v : Word) (f : Fcb) : (f.answer v).ck1 = f.ck1 := rfl
@[simp] theorem Fcb.answer_stopb (v : Word) (f : Fcb) : (f.answer v).stopb = f.stopb := rfl
@[simp] theorem Fcb.answer_ckrx (v : Word) (f : Fcb) : (f.answer v).ckrx = f.ckrx := rfl
@[simp] theorem Fcb.answer_ckcalc (v : Word) (f : Fcb) : (f.answer v).ckcalc = f.ckcalc := rfl
@[simp] theorem Fcb.answer_dcode (v : Word) (f : Fcb) : (f.answer v).dcode = f.dcode := rfl
@[simp] theorem Fcb.answer_dstate (v : Word) (f : Fcb) : (f.answer v).dstate = f.dstate := rfl
@[simp] theorem Fcb.answer_dpos (v : Word) (f : Fcb) : (f.answer v).dpos = f.dpos := rfl

@[simp] theorem Fcb.bumpPos_cmd (f : Fcb) : (f.bumpPos).cmd = f.cmd := rfl
@[simp] theorem Fcb.bumpPos_busy (f : Fcb) : (f.bumpPos).busy = f.busy := rfl
@[simp] theorem Fcb.bumpPos_frameOk (f : Fcb) : (f.bumpPos).frameOk = f.frameOk := rfl
@[simp] theorem Fcb.bumpPos_txOk (f : Fcb) : (f.bumpPos).txOk = f.txOk := rfl
@[simp] theorem Fcb.bumpPos_cmdDropped (f : Fcb) : (f.bumpPos).cmdDropped = f.cmdDropped := rfl
@[simp] theorem Fcb.bumpPos_extraBytes (f : Fcb) : (f.bumpPos).extraBytes = f.extraBytes := rfl
@[simp] theorem Fcb.bumpPos_cerr (f : Fcb) : (f.bumpPos).cerr = f.cerr := rfl
@[simp] theorem Fcb.bumpPos_result (f : Fcb) : (f.bumpPos).result = f.result := rfl
@[simp] theorem Fcb.bumpPos_sharedTs (f : Fcb) : (f.bumpPos).sharedTs = f.sharedTs := rfl
@[simp] theorem Fcb.bumpPos_destEn (f : Fcb) : (f.bumpPos).destEn = f.destEn := rfl
@[simp] theorem Fcb.bumpPos_delay (f : Fcb) : (f.bumpPos).delay = f.delay := rfl
@[simp] theorem Fcb.bumpPos_last (f : Fcb) : (f.bumpPos).last = f.last := rfl
@[simp] theorem Fcb.bumpPos_waitrem (f : Fcb) : (f.bumpPos).waitrem = f.waitrem := rfl
@[simp] theorem Fcb.bumpPos_mem (f : Fcb) : (f.bumpPos).mem = f.mem := rfl
@[simp] theorem Fcb.bumpPos_txlen (f : Fcb) : (f.bumpPos).txlen = f.txlen := rfl
@[simp] theorem Fcb.bumpPos_hstart (f : Fcb) : (f.bumpPos).hstart = f.hstart := rfl
@[simp] theorem Fcb.bumpPos_hcmd (f : Fcb) : (f.bumpPos).hcmd = f.hcmd := rfl
@[simp] theorem Fcb.bumpPos_hrc (f : Fcb) : (f.bumpPos).hrc = f.hrc := rfl
@[simp] theorem Fcb.bumpPos_hlen (f : Fcb) : (f.bumpPos).hlen = f.hlen := rfl
@[simp] theorem Fcb.bumpPos_ck0 (f : Fcb) : (f.bumpPos).ck0 = f.ck0 := rfl
@[simp] theorem Fcb.bumpPos_ck1 (f : Fcb) : (f.bumpPos).ck1 = f.ck1 := rfl
@[simp] theorem Fcb.bumpPos_stopb (f : Fcb) : (f.bumpPos).stopb = f.stopb := rfl
@[simp] theorem Fcb.bumpPos_ckrx (f : Fcb) : (f.bumpPos).ckrx = f.ckrx := rfl
@[simp] theorem Fcb.bumpPos_ckcalc (f : Fcb) : (f.bumpPos).ckcalc = f.ckcalc := rfl
@[simp] theorem Fcb.bumpPos_dcode (f : Fcb) : (f.bumpPos).dcode = f.dcode := rfl
@[simp] theorem Fcb.bumpPos_dstate (f : Fcb) : (f.bumpPos).dstate = f.dstate := rfl
@[simp] theorem Fcb.bumpPos_dpos (f : Fcb) : (f.bumpPos).dpos = f.dpos + 1#7 := rfl

@[simp] theorem Fcb.finish_cmd (e : ErrCode) (f : Fcb) : (f.finish e).cmd = f.cmd := rfl
@[simp] theorem Fcb.finish_busy (e : ErrCode) (f : Fcb) : (f.finish e).busy = f.busy := rfl
@[simp] theorem Fcb.finish_frameOk (e : ErrCode) (f : Fcb) : (f.finish e).frameOk = if e = .ok then true else f.frameOk := rfl
@[simp] theorem Fcb.finish_txOk (e : ErrCode) (f : Fcb) : (f.finish e).txOk = f.txOk := rfl
@[simp] theorem Fcb.finish_cmdDropped (e : ErrCode) (f : Fcb) : (f.finish e).cmdDropped = f.cmdDropped := rfl
@[simp] theorem Fcb.finish_extraBytes (e : ErrCode) (f : Fcb) : (f.finish e).extraBytes = f.extraBytes := rfl
@[simp] theorem Fcb.finish_cerr (e : ErrCode) (f : Fcb) : (f.finish e).cerr = f.cerr := rfl
@[simp] theorem Fcb.finish_result (e : ErrCode) (f : Fcb) : (f.finish e).result = f.result := rfl
@[simp] theorem Fcb.finish_sharedTs (e : ErrCode) (f : Fcb) : (f.finish e).sharedTs = f.sharedTs := rfl
@[simp] theorem Fcb.finish_destEn (e : ErrCode) (f : Fcb) : (f.finish e).destEn = f.destEn := rfl
@[simp] theorem Fcb.finish_delay (e : ErrCode) (f : Fcb) : (f.finish e).delay = f.delay := rfl
@[simp] theorem Fcb.finish_last (e : ErrCode) (f : Fcb) : (f.finish e).last = f.last := rfl
@[simp] theorem Fcb.finish_waitrem (e : ErrCode) (f : Fcb) : (f.finish e).waitrem = f.waitrem := rfl
@[simp] theorem Fcb.finish_mem (e : ErrCode) (f : Fcb) : (f.finish e).mem = f.mem := rfl
@[simp] theorem Fcb.finish_txlen (e : ErrCode) (f : Fcb) : (f.finish e).txlen = f.txlen := rfl
@[simp] theorem Fcb.finish_hstart (e : ErrCode) (f : Fcb) : (f.finish e).hstart = f.hstart := rfl
@[simp] theorem Fcb.finish_hcmd (e : ErrCode) (f : Fcb) : (f.finish e).hcmd = f.hcmd := rfl
@[simp] theorem Fcb.finish_hrc (e : ErrCode) (f : Fcb) : (f.finish e).hrc = f.hrc := rfl
@[simp] theorem Fcb.finish_hlen (e : ErrCode) (f : Fcb) : (f.finish e).hlen = f.hlen := rfl
@[simp] theorem Fcb.finish_ck0 (e : ErrCode) (f : Fcb) : (f.finish e).ck0 = f.ck0 := rfl
@[simp] theorem Fcb.finish_ck1 (e : ErrCode) (f : Fcb) : (f.finish e).ck1 = f.ck1 := rfl
@[simp] theorem Fcb.finish_stopb (e : ErrCode) (f : Fcb) : (f.finish e).stopb = f.stopb := rfl
@[simp] theorem Fcb.finish_ckrx (e : ErrCode) (f : Fcb) : (f.finish e).ckrx = f.ckrx := rfl
@[simp] theorem Fcb.finish_ckcalc (e : ErrCode) (f : Fcb) : (f.finish e).ckcalc = f.ckcalc := rfl
@[simp] theorem Fcb.finish_dcode (e : ErrCode) (f : Fcb) : (f.finish e).dcode = e := rfl
@[simp] theorem Fcb.finish_dstate (e : ErrCode) (f : Fcb) : (f.finish e).dstate = .done := rfl
@[simp] theorem Fcb.finish_dpos (e : ErrCode) (f : Fcb) : (f.finish e).dpos = f.dpos := rfl

@[simp] theorem Fcb.setCtrl_cmd (v : Word) (f : Fcb) : (f.setCtrl v).cmd = f.cmd := rfl
@[simp] theorem Fcb.setCtrl_busy (v : Word) (f : Fcb) : (f.setCtrl v).busy = f.busy := rfl
@[simp] theorem Fcb.setCtrl_frameOk (v : Word) (f : Fcb) : (f.setCtrl v).frameOk = f.frameOk := rfl
@[simp] theorem Fcb.setCtrl_txOk (v : Word) (f : Fcb) : (f.setCtrl v).txOk = f.txOk := rfl
@[simp] theorem Fcb.setCtrl_cmdDropped (v : Word) (f : Fcb) : (f.setCtrl v).cmdDropped = f.cmdDropped := rfl
@[simp] theorem Fcb.setCtrl_extraBytes (v : Word) (f : Fcb) : (f.setCtrl v).extraBytes = f.extraBytes := rfl
@[simp] theorem Fcb.setCtrl_cerr (v : Word) (f : Fcb) : (f.setCtrl v).cerr = f.cerr := rfl
@[simp] theorem Fcb.setCtrl_result (v : Word) (f : Fcb) : (f.setCtrl v).result = f.result := rfl
@[simp] theorem Fcb.setCtrl_sharedTs (v : Word) (f : Fcb) : (f.setCtrl v).sharedTs = v.getLsbD 0 := rfl
@[simp] theorem Fcb.setCtrl_destEn (v : Word) (f : Fcb) : (f.setCtrl v).destEn = v.getLsbD 1 := rfl
@[simp] theorem Fcb.setCtrl_delay (v : Word) (f : Fcb) : (f.setCtrl v).delay = f.delay := rfl
@[simp] theorem Fcb.setCtrl_last (v : Word) (f : Fcb) : (f.setCtrl v).last = f.last := rfl
@[simp] theorem Fcb.setCtrl_waitrem (v : Word) (f : Fcb) : (f.setCtrl v).waitrem = f.waitrem := rfl
@[simp] theorem Fcb.setCtrl_mem (v : Word) (f : Fcb) : (f.setCtrl v).mem = f.mem := rfl
@[simp] theorem Fcb.setCtrl_txlen (v : Word) (f : Fcb) : (f.setCtrl v).txlen = f.txlen := rfl
@[simp] theorem Fcb.setCtrl_hstart (v : Word) (f : Fcb) : (f.setCtrl v).hstart = f.hstart := rfl
@[simp] theorem Fcb.setCtrl_hcmd (v : Word) (f : Fcb) : (f.setCtrl v).hcmd = f.hcmd := rfl
@[simp] theorem Fcb.setCtrl_hrc (v : Word) (f : Fcb) : (f.setCtrl v).hrc = f.hrc := rfl
@[simp] theorem Fcb.setCtrl_hlen (v : Word) (f : Fcb) : (f.setCtrl v).hlen = f.hlen := rfl
@[simp] theorem Fcb.setCtrl_ck0 (v : Word) (f : Fcb) : (f.setCtrl v).ck0 = f.ck0 := rfl
@[simp] theorem Fcb.setCtrl_ck1 (v : Word) (f : Fcb) : (f.setCtrl v).ck1 = f.ck1 := rfl
@[simp] theorem Fcb.setCtrl_stopb (v : Word) (f : Fcb) : (f.setCtrl v).stopb = f.stopb := rfl
@[simp] theorem Fcb.setCtrl_ckrx (v : Word) (f : Fcb) : (f.setCtrl v).ckrx = f.ckrx := rfl
@[simp] theorem Fcb.setCtrl_ckcalc (v : Word) (f : Fcb) : (f.setCtrl v).ckcalc = f.ckcalc := rfl
@[simp] theorem Fcb.setCtrl_dcode (v : Word) (f : Fcb) : (f.setCtrl v).dcode = f.dcode := rfl
@[simp] theorem Fcb.setCtrl_dstate (v : Word) (f : Fcb) : (f.setCtrl v).dstate = f.dstate := rfl
@[simp] theorem Fcb.setCtrl_dpos (v : Word) (f : Fcb) : (f.setCtrl v).dpos = f.dpos := rfl

end Sys2Proof.Machine
end

