-- ==== Sys2Proof/Laws/Commands.lean ====
section
/-! SUPPORT. What the shared operations of the commands can do, each said once: answering, the guarded payload read, and that
a command stays within its own instance and the timestamp. -/

namespace Sys2Proof.Machine

/-- A command that answers a value. -/
@[simp] theorem answer_ok (v : Word) (s : State) : answer (.ok v) s = .next (s.answered v) := rfl

/-- A command that raises an error. -/
@[simp] theorem answer_error (e : ErrCode) (s : State) : answer (.error e) s = .next (s.raised e) := rfl

/-- An answering command always completes: with a value in RESULT, or with an error code and nothing else. -/
theorem answer_cases {r : Except ErrCode Word} {s t : State} (h : answer r s = .next t) :
    (∃ v, r = .ok v ∧ t = s.answered v) ∨ (∃ e, r = .error e ∧ t = s.raised e) := by
  cases r with
  | ok v => exact .inl ⟨v, rfl, by simpa using h.symm⟩
  | error e => exact .inr ⟨e, rfl, by simpa using h.symm⟩

/-- The guarded read, R170, as its two checks and the value. -/
theorem rxBytes_cases {α : Type} (off w : Nat) (f : Fcb) (v : α) :
    (f.frameOk = false ∧ rxBytes off w f v = .error .noFrame) ∨
    (f.frameOk = true ∧ f.hlen.toNat < off + w ∧ rxBytes off w f v = .error .extractRange) ∨
    (f.frameOk = true ∧ off + w ≤ f.hlen.toNat ∧ rxBytes off w f v = .ok v) := by
  unfold rxBytes
  cases hf : f.frameOk with
  | false => simp
  | true =>
    by_cases hl : f.hlen.toNat < off + w
    · simp [hl]
    · simp [hl]; omega

/-- Widening a read value. -/
@[simp] theorem widen_ok {α : Type} (g : α → Word) (v : α) : widen g (.ok v) = .ok (g v) := rfl

/-- Widening keeps an error. -/
@[simp] theorem widen_error {α : Type} (g : α → Word) (e : ErrCode) : widen g (.error e) = .error e := rfl

/-- The state a command of client 0 leaves: its own instance and the timestamp cell may differ, nothing else. -/
def OwnEffect (s : State) (r : Host.Outcome State Fault Refusal) : Prop :=
  ∃ g c, r = .next { s with fcb := g, shcell := c }

/-- Replacing the instance is an effect on the instance alone. -/
theorem ownEffect_withFcb (s : State) (g : Fcb) : OwnEffect s (.next (s.withFcb g)) := ⟨g, s.shcell, rfl⟩

/-- Answering is an effect on the instance alone. -/
theorem ownEffect_answer (r : Except ErrCode Word) (s : State) : OwnEffect s (answer r s) := by
  cases r <;> exact ⟨_, s.shcell, rfl⟩

/-- ENCODE and CKSUM act on the instance alone. -/
theorem ownEffect_codec (s : State) :
    (∀ t l, OwnEffect s (execCksum t l s)) ∧ (∀ d k l, OwnEffect s (execEncode d k l s)) := by
  constructor
  · intro t l
    unfold execCksum
    split <;> exact ownEffect_withFcb s _
  · intro d k l
    unfold execEncode
    split
    · exact ownEffect_withFcb s _
    · split <;> exact ownEffect_withFcb s _

/-- DEC_EOS and BAL_STR act on the instance alone. -/
theorem ownEffect_ends (s : State) : OwnEffect s (execDecEos s) ∧ OwnEffect s (execBalStr s) := by
  constructor
  · unfold execDecEos
    split <;> exact ownEffect_withFcb s _
  · unfold execBalStr
    split <;> exact ownEffect_withFcb s _

/-- The timing guard's commands act on the instance and the timestamp cell alone. -/
theorem ownEffect_timing (s : State) : OwnEffect s (execTgWait s) ∧ OwnEffect s (execTgMark s) := by
  constructor
  · unfold execTgWait
    split <;> exact ownEffect_withFcb s _
  · simp only [execTgMark, State.setStamp]
    split <;> exact ⟨_, _, rfl⟩

/-- Every command completes, on its own instance and the timestamp cell alone. -/
theorem exec_ownEffect (i : Instr) (s : State) : OwnEffect s (exec i s) := by
  cases i
  case cksum t l => exact (ownEffect_codec s).1 t l
  case encode d k l => exact (ownEffect_codec s).2 d k l
  case decEos => exact (ownEffect_ends s).1
  case balStr => exact (ownEffect_ends s).2
  case tgWait => exact (ownEffect_timing s).1
  case tgMark => exact (ownEffect_timing s).2
  all_goals first
    | exact ownEffect_answer _ s
    | exact ownEffect_withFcb s _

/-- What an executed command leaves of everything but its own instance and the timestamp cell. -/
theorem exec_keeps {i : Instr} {s t : State} (h : exec i s = .next t) :
    t.peers = s.peers ∧ t.now = s.now ∧ t.resetLine = s.resetLine ∧ t.cfg = s.cfg ∧ t.agenda = s.agenda ∧
      t.busReply = s.busReply := by
  obtain ⟨g, c, hg⟩ := exec_ownEffect i s
  rw [hg] at h
  cases h
  exact ⟨rfl, rfl, rfl, rfl, rfl, rfl⟩

end Sys2Proof.Machine
end

