-- ==== Sys2Proof/Laws/Codec.lean ====
section
/-! SUPPORT. What the codec's operations and the memory writers can do, each said once: the request checksum, the end of a
frame, the decoder's byte, and which commands write buffer bytes and where. -/

namespace Sys2Proof.Machine

/-- The request checksum, R125 and R127: refused for its length or by the sentinel, or given. -/
theorem requestCk_cases (cfg : Config) (t l : Byte) (f : Fcb) :
    ((31 ≤ l.toNat ∨ cfg.sentinelCompat = true ∧ ck16 t l (f.requestPayload l) = 0#16) ∧
      requestCk cfg t l f = .error .malformedLength) ∨
    (l.toNat ≤ 30 ∧ (cfg.sentinelCompat = false ∨ ck16 t l (f.requestPayload l) ≠ 0#16) ∧
      requestCk cfg t l f = .ok (ck16 t l (f.requestPayload l))) := by
  unfold requestCk
  by_cases hl : Config.reqMaxLen < l.toNat
  · exact .inl ⟨.inl hl, if_pos hl⟩
  · rw [if_neg hl]
    by_cases hs : cfg.sentinelCompat = true ∧ ck16 t l (f.requestPayload l) = 0#16
    · exact .inl ⟨.inr hs, if_pos hs⟩
    · refine .inr ⟨by simpa [Config.reqMaxLen] using hl, ?_, if_neg hs⟩
      cases hc : cfg.sentinelCompat with
      | false => exact .inl rfl
      | true => exact .inr (fun h => hs ⟨hc, h⟩)

/-- The header check changes the phase, the outcome and FRAME_OK alone; a failed one does not set FRAME_OK (R129). -/
theorem hdrCheck_cases (f : Fcb) :
    (∃ e, (e = .badStart ∨ e = .oversizedLength ∨ e = .missingDest) ∧
      f.hdrCheck = { f with dstate := .done, dcode := e }) ∨
    (f.hstart = 0xDD#8 ∧ f.hlen.toNat = 0 ∧ f.hdrCheck = { f with dstate := .tail }) ∨
    (f.hstart = 0xDD#8 ∧ 0 < f.hlen.toNat ∧ f.hlen.toNat ≤ 64 ∧ f.hdrCheck = { f with dstate := .pay }) := by
  unfold Fcb.hdrCheck
  by_cases h1 : f.hstart ≠ Config.startByte
  · rw [if_pos h1]; exact .inl ⟨.badStart, by simp, by simp [Fcb.finish]⟩
  rw [if_neg h1]
  have hs : f.hstart = 0xDD#8 := by simpa [Config.startByte] using h1
  by_cases h2 : Config.rspMaxLen < f.hlen.toNat
  · rw [if_pos h2]; exact .inl ⟨.oversizedLength, by simp, by simp [Fcb.finish]⟩
  rw [if_neg h2]
  by_cases h3 : 0 < f.hlen.toNat ∧ f.destEn = false
  · rw [if_pos h3]; exact .inl ⟨.missingDest, by simp, by simp [Fcb.finish]⟩
  rw [if_neg h3]
  by_cases h4 : f.hlen.toNat = 0
  · rw [if_pos h4]; exact .inr (.inl ⟨hs, h4, rfl⟩)
  · rw [if_neg h4]
    exact .inr (.inr ⟨hs, by omega, by simpa [Config.rspMaxLen] using h2, rfl⟩)

/-- The registers outside the decoder agree: all but RXHDR, RXTAIL, RXCK, DSTAT, FRAME_OK, EXTRA_BYTES and the buffers. -/
structure SameOutsideDecoder (f g : Fcb) : Prop where
  cmd : g.cmd = f.cmd
  busy : g.busy = f.busy
  txOk : g.txOk = f.txOk
  cmdDropped : g.cmdDropped = f.cmdDropped
  cerr : g.cerr = f.cerr
  result : g.result = f.result
  sharedTs : g.sharedTs = f.sharedTs
  destEn : g.destEn = f.destEn
  delay : g.delay = f.delay
  last : g.last = f.last
  waitrem : g.waitrem = f.waitrem
  txlen : g.txlen = f.txlen

/-- The header check keeps everything outside the decoder, and the buffers. -/
theorem hdrCheck_keeps (f : Fcb) : SameOutsideDecoder f f.hdrCheck ∧ f.hdrCheck.mem = f.mem := by
  rcases hdrCheck_cases f with ⟨e, -, h⟩ | ⟨-, -, h⟩ | ⟨-, -, -, h⟩ <;> rw [h] <;>
    exact ⟨⟨rfl, rfl, rfl, rfl, rfl, rfl, rfl, rfl, rfl, rfl, rfl, rfl⟩, rfl⟩

/-- A header byte, with the check where it is the fourth, keeps everything outside the decoder, and the buffers. -/
theorem takeHeader_keeps (b : Byte) (f : Fcb) :
    SameOutsideDecoder f (f.takeHeader b) ∧ (f.takeHeader b).mem = f.mem := by
  have hp : ∀ i, SameOutsideDecoder f (f.putHeader i b).bumpPos ∧ (f.putHeader i b).bumpPos.mem = f.mem := by
    intro i
    unfold Fcb.putHeader
    split <;> exact ⟨⟨rfl, rfl, rfl, rfl, rfl, rfl, rfl, rfl, rfl, rfl, rfl, rfl⟩, rfl⟩
  obtain ⟨hs, hm⟩ := hp f.dpos.toNat
  unfold Fcb.takeHeader
  simp only
  split
  · obtain ⟨hs', hm'⟩ := hdrCheck_keeps (f.putHeader f.dpos.toNat b).bumpPos
    exact ⟨⟨hs'.cmd.trans hs.cmd, hs'.busy.trans hs.busy, hs'.txOk.trans hs.txOk, hs'.cmdDropped.trans hs.cmdDropped,
      hs'.cerr.trans hs.cerr, hs'.result.trans hs.result, hs'.sharedTs.trans hs.sharedTs, hs'.destEn.trans hs.destEn,
      hs'.delay.trans hs.delay, hs'.last.trans hs.last, hs'.waitrem.trans hs.waitrem, hs'.txlen.trans hs.txlen⟩,
      hm'.trans hm⟩
  · exact ⟨hs, hm⟩

/-- The decoder's byte keeps everything outside the decoder, and writes at most the one byte of RXPAY the payload phase
is at (R131, R39). -/
theorem takeByte_keeps (o : CksumOrder) (b : Byte) (f : Fcb) :
    SameOutsideDecoder f (f.takeByte o b) ∧
      (f.takeByte o b).mem =
        if f.dstate = .pay then f.mem.write (rxpayBase + (f.dpos.toNat - 4)) b else f.mem := by
  cases hd : f.dstate
  case hdr => simpa [Fcb.takeByte, hd] using takeHeader_keeps b f
  case pay =>
    simp only [Fcb.takeByte, hd, Fcb.takePayload]
    split <;> exact ⟨⟨rfl, rfl, rfl, rfl, rfl, rfl, rfl, rfl, rfl, rfl, rfl, rfl⟩, rfl⟩
  case tail =>
    simp only [Fcb.takeByte, hd, Fcb.takeTrailer]
    split
    · exact ⟨⟨rfl, rfl, rfl, rfl, rfl, rfl, rfl, rfl, rfl, rfl, rfl, rfl⟩, rfl⟩
    split
    · exact ⟨⟨rfl, rfl, rfl, rfl, rfl, rfl, rfl, rfl, rfl, rfl, rfl, rfl⟩, rfl⟩
    split <;> exact ⟨⟨rfl, rfl, rfl, rfl, rfl, rfl, rfl, rfl, rfl, rfl, rfl, rfl⟩, rfl⟩
  all_goals
    simp only [Fcb.takeByte, hd]
    exact ⟨⟨rfl, rfl, rfl, rfl, rfl, rfl, rfl, rfl, rfl, rfl, rfl, rfl⟩, rfl⟩

/-- Which bytes of the buffers a command can write: none, the reset contents, the request payload's first two, the request
frame, the decoder's payload byte, or the balance string. -/
theorem exec_mem_cases {i : Instr} {s t : State} (h : exec i s = .next t) :
    t.fcb.mem = s.fcb.mem ∨ (i = .srst ∧ t.fcb.mem = []) ∨
    (∃ b, i = .mosPay b ∧ t.fcb.mem = s.fcb.mem.writeBytes txpayBase [0x00#8, mosfetWire b]) ∨
    (∃ d k l, i = .encode d k l ∧ t.fcb.txOk = true ∧ l.toNat ≤ 30 ∧
      t.fcb.mem = s.fcb.mem.writeBytes txframeBase (requestFrame s.cfg.wireCksumOrder d k l (s.fcb.requestPayload l)
        (ck16 k l (s.fcb.requestPayload l)))) ∨
    (∃ b, i = .decByte b ∧ s.fcb.dstate = .pay ∧
      t.fcb.mem = s.fcb.mem.write (rxpayBase + (s.fcb.dpos.toNat - 4)) b) ∨
    (i = .balStr ∧ t.fcb.mem = s.fcb.mem.writeBytes outstrBase s.fcb.balString) := by
  cases i
  case srst => cases h; exact .inr (.inl ⟨rfl, rfl⟩)
  case mosPay b => cases h; exact .inr (.inr (.inl ⟨b, rfl, rfl⟩))
  case cksum a l =>
    simp only [exec, execCksum] at h
    split at h <;> cases h <;> exact .inl rfl
  case encode d k l =>
    simp only [exec, execEncode] at h
    split at h
    · cases h; exact .inl rfl
    · rcases requestCk_cases s.cfg k l s.fcb with ⟨-, hr⟩ | ⟨hl, -, hr⟩ <;> rw [hr] at h <;> cases h
      · exact .inl rfl
      · exact .inr (.inr (.inr (.inl ⟨d, k, l, rfl, rfl, hl, rfl⟩)))
  case decByte b =>
    cases h
    have hm := (takeByte_keeps s.cfg.wireCksumOrder b s.fcb).2
    by_cases hd : s.fcb.dstate = .pay
    · rw [if_pos hd] at hm
      exact .inr (.inr (.inr (.inr (.inl ⟨b, rfl, hd, hm⟩))))
    · rw [if_neg hd] at hm
      exact .inl hm
  case decEos =>
    simp only [exec, execDecEos] at h
    split at h <;> cases h <;> exact .inl rfl
  case balStr =>
    simp only [exec, execBalStr] at h
    split at h <;> cases h
    · exact .inl rfl
    · exact .inr (.inr (.inr (.inr (.inr ⟨rfl, rfl⟩))))
  case tgWait =>
    simp only [exec, execTgWait] at h
    split at h <;> cases h <;> exact .inl rfl
  case tgMark =>
    simp only [exec, execTgMark, State.setStamp] at h
    split at h <;> cases h <;> exact .inl rfl
  all_goals first
    | (cases h; exact .inl rfl)
    | (rcases answer_cases h with ⟨v, -, rfl⟩ | ⟨e, -, rfl⟩ <;> exact .inl rfl)

end Sys2Proof.Machine
end

