-- ==== Sys2Proof/Laws/Decode.lean ====
section
/-! SUPPORT. The words of each format as numbers, the fields of a word as numbers, and the reserved bits of a format as a
mask: the small lemmas of decode and encode. -/

namespace Sys2Proof

/-- Appending two bit vectors, as a number. -/
theorem toNat_append_eq {m n : Nat} (x : BitVec m) (y : BitVec n) : (x ++ y).toNat = x.toNat * 2 ^ n + y.toNat := by
  rw [BitVec.toNat_append, Nat.shiftLeft_eq, Nat.mul_comm, Nat.two_pow_add_eq_or_of_lt y.isLt]

/-- A word of format N as a number. -/
theorem toNat_wordN (op : Byte) : (wordN op).toNat = op.toNat * 2 ^ 24 := by
  have h : (wordN op).toNat = op.toNat * 2 ^ 24 + (0#24).toNat := toNat_append_eq op (0#24)
  rw [h]
  simp

/-- A word of format B or O as a number. -/
theorem toNat_wordB (op b : Byte) : (wordB op b).toNat = op.toNat * 2 ^ 24 + b.toNat := by
  have h : (wordB op b).toNat = (op ++ 0#16).toNat * 2 ^ 8 + b.toNat := toNat_append_eq (op ++ 0#16) b
  rw [h, toNat_append_eq]
  simp
  omega

/-- A word of format H as a number. -/
theorem toNat_wordH (op : Byte) (v : Half) : (wordH op v).toNat = op.toNat * 2 ^ 24 + v.toNat := by
  have h : (wordH op v).toNat = (op ++ 0#8).toNat * 2 ^ 16 + v.toNat := toNat_append_eq (op ++ 0#8) v
  rw [h, toNat_append_eq]
  simp
  omega

/-- A word of format C as a number. -/
theorem toNat_wordC (op t l : Byte) : (wordC op t l).toNat = op.toNat * 2 ^ 24 + t.toNat * 2 ^ 8 + l.toNat := by
  have h : (wordC op t l).toNat = (op ++ 0#8 ++ t).toNat * 2 ^ 8 + l.toNat := toNat_append_eq (op ++ 0#8 ++ t) l
  rw [h, toNat_append_eq, toNat_append_eq]
  simp
  omega

/-- A word of format F as a number. -/
theorem toNat_wordF (op d k l : Byte) :
    (wordF op d k l).toNat = op.toNat * 2 ^ 24 + d.toNat * 2 ^ 16 + k.toNat * 2 ^ 8 + l.toNat := by
  have h : (wordF op d k l).toNat = (op ++ d ++ k).toNat * 2 ^ 8 + l.toNat := toNat_append_eq (op ++ d ++ k) l
  rw [h, toNat_append_eq, toNat_append_eq]
  omega

/-- A field of a word as a number. -/
theorem toNat_field (w : Word) (lo n : Nat) : (w.extractLsb' lo n).toNat = w.toNat / 2 ^ lo % 2 ^ n := by
  rw [BitVec.extractLsb'_toNat, Nat.shiftRight_eq_div_pow]

/-- The opcode of a word as a number. -/
theorem toNat_opcodeOf (w : Word) : (opcodeOf w).toNat = w.toNat / 2 ^ 24 := by
  have := w.isLt
  rw [opcodeOf, toNat_field]
  omega

/-- The opcode of a word of format N. -/
@[simp] theorem opcodeOf_wordN (op : Byte) : opcodeOf (wordN op) = op := by
  apply BitVec.eq_of_toNat_eq
  rw [toNat_opcodeOf, toNat_wordN]
  omega

/-- The opcode of a word of format B or O. -/
@[simp] theorem opcodeOf_wordB (op b : Byte) : opcodeOf (wordB op b) = op := by
  apply BitVec.eq_of_toNat_eq
  rw [toNat_opcodeOf, toNat_wordB]
  have := b.isLt
  omega

/-- The opcode of a word of format H. -/
@[simp] theorem opcodeOf_wordH (op : Byte) (v : Half) : opcodeOf (wordH op v) = op := by
  apply BitVec.eq_of_toNat_eq
  rw [toNat_opcodeOf, toNat_wordH]
  have := v.isLt
  omega

/-- The opcode of a word of format C. -/
@[simp] theorem opcodeOf_wordC (op t l : Byte) : opcodeOf (wordC op t l) = op := by
  apply BitVec.eq_of_toNat_eq
  rw [toNat_opcodeOf, toNat_wordC]
  have := t.isLt
  have := l.isLt
  omega

/-- The opcode of a word of format F. -/
@[simp] theorem opcodeOf_wordF (op d k l : Byte) : opcodeOf (wordF op d k l) = op := by
  apply BitVec.eq_of_toNat_eq
  rw [toNat_opcodeOf, toNat_wordF]
  have := d.isLt
  have := k.isLt
  have := l.isLt
  omega

/-- The operand field of a word of format B or O. -/
@[simp] theorem field_wordB (op b : Byte) : (wordB op b).extractLsb' 0 8 = b := by
  apply BitVec.eq_of_toNat_eq
  rw [toNat_field, toNat_wordB]
  have := b.isLt
  omega

/-- The operand field of a word of format H. -/
@[simp] theorem field_wordH (op : Byte) (v : Half) : (wordH op v).extractLsb' 0 16 = v := by
  apply BitVec.eq_of_toNat_eq
  rw [toNat_field, toNat_wordH]
  have := v.isLt
  omega

/-- The operand fields of a word of format C. -/
theorem fields_wordC (op t l : Byte) :
    (wordC op t l).extractLsb' 8 8 = t ∧ (wordC op t l).extractLsb' 0 8 = l := by
  have := t.isLt
  have := l.isLt
  constructor <;> apply BitVec.eq_of_toNat_eq <;> rw [toNat_field, toNat_wordC] <;> omega

/-- The operand fields of a word of format F. -/
theorem fields_wordF (op d k l : Byte) :
    (wordF op d k l).extractLsb' 16 8 = d ∧ (wordF op d k l).extractLsb' 8 8 = k ∧
      (wordF op d k l).extractLsb' 0 8 = l := by
  have := d.isLt
  have := k.isLt
  have := l.isLt
  refine ⟨?_, ?_, ?_⟩ <;> apply BitVec.eq_of_toNat_eq <;> rw [toNat_field, toNat_wordF] <;> omega

/-- The reserved bits of the words the encoder builds are 0. -/
theorem reserved_words (op b t l : Byte) (v : Half) (mk : Instr) (mkB : Byte → Instr) (mkH : Half → Instr)
    (mkC : Byte → Byte → Instr) :
    (Format.n mk).reserved (wordN op) = 0 ∧ (Format.b mkB).reserved (wordB op b) = 0 ∧
      (Format.h mkH).reserved (wordH op v) = 0 ∧ (Format.c mkC).reserved (wordC op t l) = 0 := by
  have := op.isLt
  have := b.isLt
  have := t.isLt
  have := l.isLt
  have := v.isLt
  simp only [Format.reserved, toNat_field, toNat_wordN, toNat_wordB, toNat_wordH, toNat_wordC]
  omega

/-- What the decoder answers for an opcode of the map. -/
theorem decode_of_map {w : Word} {fmt : Format} (h : opcodeMap (opcodeOf w) = some fmt) :
    decode w = if fmt.reserved w = 0 then .ok (fmt.fill w) else .error (.reservedBits (opcodeOf w)) := by
  unfold decode
  rw [h]

/-- What the decoder answers for a reserved opcode. -/
theorem decode_of_unmapped {w : Word} (h : opcodeMap (opcodeOf w) = none) :
    decode w = .error (.unknownOpcode (opcodeOf w)) := by
  unfold decode
  rw [h]

end Sys2Proof
end

