-- ==== Sys2Proof/Laws/Operands.lean ====
section
/-! SUPPORT. The operand operations as numbers: byte order, extension, the deci-celsius encoding, and single bits. -/

namespace Sys2Proof.Machine

/-- be16 as a number, R8. -/
theorem toNat_be16 (b0 b1 : Byte) : (be16 b0 b1).toNat = b0.toNat * 256 + b1.toNat := toNat_append_eq b0 b1

/-- le16 as a number, R8. -/
theorem toNat_le16 (b0 b1 : Byte) : (le16 b0 b1).toNat = b1.toNat * 256 + b0.toNat := toNat_append_eq b1 b0

/-- zext_32 of a value of at most 32 bits changes no number, R7. -/
theorem toNat_zext32 {n : Nat} (v : BitVec n) (h : n ≤ 32) : (zext32 v).toNat = v.toNat := by
  unfold zext32
  rw [BitVec.toNat_setWidth]
  exact Nat.mod_eq_of_lt (Nat.lt_of_lt_of_le v.isLt (Nat.pow_le_pow_right (by omega) h))

/-- zext_32 of a byte or a halfword as the word of its number. -/
theorem zext32_eq_ofNat {n : Nat} (v : BitVec n) (h : n ≤ 32) : zext32 v = BitVec.ofNat 32 v.toNat := by
  apply BitVec.eq_of_toNat_eq
  rw [toNat_zext32 v h, BitVec.toNat_ofNat]
  exact (Nat.mod_eq_of_lt (Nat.lt_of_lt_of_le v.isLt (Nat.pow_le_pow_right (by omega) h))).symm

/-- sext_32 as a signed number, R7. -/
theorem toInt_sext32 (v : Half) : (sext32 v).toInt = v.toInt := by
  unfold sext32
  exact BitVec.toInt_signExtend_of_le (by omega)

/-- The two bytes exchanged, as a number, R177. -/
theorem toNat_bswap16 (v : Half) : (bswap16 v).toNat = v.toNat % 256 * 256 + v.toNat / 256 := by
  have h : (bswap16 v).toNat = (v.extractLsb' 0 8).toNat * 2 ^ 8 + (v.extractLsb' 8 8).toNat :=
    toNat_append_eq (v.extractLsb' 0 8) (v.extractLsb' 8 8)
  rw [h, BitVec.extractLsb'_toNat, BitVec.extractLsb'_toNat, Nat.shiftRight_eq_div_pow, Nat.shiftRight_eq_div_pow]
  have := v.isLt
  omega

/-- A bit of a value as a number. -/
theorem toNat_ofBool_getLsbD {n : Nat} (v : BitVec n) (j : Nat) :
    (BitVec.ofBool (v.getLsbD j)).toNat = v.toNat / 2 ^ j % 2 := by
  have h : v.getLsbD j = decide (v.toNat / 2 ^ j % 2 = 1) := by
    rw [BitVec.getLsbD, Nat.testBit_eq_decide_div_mod_eq]
  rw [h]
  have h2 := Nat.mod_two_eq_zero_or_one (v.toNat / 2 ^ j)
  rcases h2 with h2 | h2 <;> simp [h2]

end Sys2Proof.Machine
end

