-- ==== Sys2Proof/Laws/PerInstr.lean ====
section
/-! SUPPORT. Statements made per command about its syntax: the word of the command is accepted by its row of the opcode
map (R98). -/

namespace Sys2Proof.Laws.EncodedRow

/-- The word of the command is well formed: a row of the opcode map accepts it (R98). -/
def Statement (i : Instr) : Prop := wordWellFormed (Sys2Proof.encode i) = true

/-- Masking the low k bits of a word away, as numbers. -/
theorem masked_eq {w m : Word} (k : Nat) (h : w.toNat / 2 ^ k * 2 ^ k = m.toNat) :
    w &&& BitVec.allOnes 32 <<< k = m := by
  have := m.isLt
  rw [← BitVec.shiftLeft_ushiftRight]
  apply BitVec.eq_of_toNat_eq
  rw [BitVec.toNat_shiftLeft, BitVec.toNat_ushiftRight, Nat.shiftLeft_eq, Nat.shiftRight_eq_div_pow, h]
  exact Nat.mod_eq_of_lt this

/-- A row of the map that accepts a word makes it well formed. -/
theorem wellFormed_of_row {w : Word} (m mask : Word) (k : Nat) (hrow : ⟨m, mask⟩ ∈ opcodeRows)
    (hmask : mask = BitVec.allOnes 32 <<< k) (h : w.toNat / 2 ^ k * 2 ^ k = m.toNat) : wordWellFormed w = true := by
  refine List.any_eq_true.mpr ⟨⟨m, mask⟩, hrow, ?_⟩
  simp only [OpRow.accepts, hmask, masked_eq k h, BEq.rfl]

/-- The masks of the formats, R91 to R96, as shifted ones. -/
theorem masks_eq : (0xFFFFFFFF#32 = BitVec.allOnes 32 <<< 0) ∧ (0xFFFFFF00#32 = BitVec.allOnes 32 <<< 8) ∧
    (0xFFFF0000#32 = BitVec.allOnes 32 <<< 16) ∧ (0xFF000000#32 = BitVec.allOnes 32 <<< 24) := by decide

theorem nop : Statement .nop := by unfold Statement; decide

theorem srst : Statement .srst := by unfold Statement; decide

theorem clrerr : Statement .clrerr := by unfold Statement; decide

theorem cksum (t l : Byte) : Statement (.cksum t l) := by
  have := t.isLt
  have := l.isLt
  refine wellFormed_of_row 0x10000000#32 0xFFFF0000#32 16 (by decide) masks_eq.2.2.1 ?_
  simp only [Sys2Proof.encode, toNat_wordC, BitVec.toNat_ofNat]
  omega

theorem encode (d k l : Byte) : Statement (.encode d k l) := by
  have := d.isLt
  have := k.isLt
  have := l.isLt
  refine wellFormed_of_row 0x11000000#32 0xFF000000#32 24 (by decide) masks_eq.2.2.2 ?_
  simp only [Sys2Proof.encode, toNat_wordF, BitVec.toNat_ofNat]
  omega

theorem decStart : Statement .decStart := by unfold Statement; decide

theorem decByte (b : Byte) : Statement (.decByte b) := by
  have := b.isLt
  refine wellFormed_of_row 0x13000000#32 0xFFFFFF00#32 8 (by decide) masks_eq.2.1 ?_
  simp only [Sys2Proof.encode, toNat_wordB, BitVec.toNat_ofNat]
  omega

theorem decEos : Statement .decEos := by unfold Statement; decide

theorem rdU8 (n : Byte) : Statement (.rdU8 n) := by
  have := n.isLt
  refine wellFormed_of_row 0x20000000#32 0xFFFFFF00#32 8 (by decide) masks_eq.2.1 ?_
  simp only [Sys2Proof.encode, toNat_wordB, BitVec.toNat_ofNat]
  omega

theorem rdU16be (n : Byte) : Statement (.rdU16be n) := by
  have := n.isLt
  refine wellFormed_of_row 0x21000000#32 0xFFFFFF00#32 8 (by decide) masks_eq.2.1 ?_
  simp only [Sys2Proof.encode, toNat_wordB, BitVec.toNat_ofNat]
  omega

theorem rdU16le (n : Byte) : Statement (.rdU16le n) := by
  have := n.isLt
  refine wellFormed_of_row 0x22000000#32 0xFFFFFF00#32 8 (by decide) masks_eq.2.1 ?_
  simp only [Sys2Proof.encode, toNat_wordB, BitVec.toNat_ofNat]
  omega

theorem rdS16be (n : Byte) : Statement (.rdS16be n) := by
  have := n.isLt
  refine wellFormed_of_row 0x23000000#32 0xFFFFFF00#32 8 (by decide) masks_eq.2.1 ?_
  simp only [Sys2Proof.encode, toNat_wordB, BitVec.toNat_ofNat]
  omega

theorem rdS16le (n : Byte) : Statement (.rdS16le n) := by
  have := n.isLt
  refine wellFormed_of_row 0x24000000#32 0xFFFFFF00#32 8 (by decide) masks_eq.2.1 ?_
  simp only [Sys2Proof.encode, toNat_wordB, BitVec.toNat_ofNat]
  omega

theorem bswap16 (v : Half) : Statement (.bswap16 v) := by
  have := v.isLt
  refine wellFormed_of_row 0x25000000#32 0xFFFF0000#32 16 (by decide) masks_eq.2.2.1 ?_
  simp only [Sys2Proof.encode, toNat_wordH, BitVec.toNat_ofNat]
  omega

theorem rdCell (n : Byte) : Statement (.rdCell n) := by
  have := n.isLt
  refine wellFormed_of_row 0x26000000#32 0xFFFFFF00#32 8 (by decide) masks_eq.2.1 ?_
  simp only [Sys2Proof.encode, toNat_wordB, BitVec.toNat_ofNat]
  omega

theorem ftCellOv (v : Half) : Statement (.ftCellOv v) := by
  have := v.isLt
  refine wellFormed_of_row 0x30000000#32 0xFFFF0000#32 16 (by decide) masks_eq.2.2.1 ?_
  simp only [Sys2Proof.encode, toNat_wordH, BitVec.toNat_ofNat]
  omega

theorem ftCellUv (v : Half) : Statement (.ftCellUv v) := by
  have := v.isLt
  refine wellFormed_of_row 0x31000000#32 0xFFFF0000#32 16 (by decide) masks_eq.2.2.1 ?_
  simp only [Sys2Proof.encode, toNat_wordH, BitVec.toNat_ofNat]
  omega

theorem ftPackOv (v : Half) : Statement (.ftPackOv v) := by
  have := v.isLt
  refine wellFormed_of_row 0x32000000#32 0xFFFF0000#32 16 (by decide) masks_eq.2.2.1 ?_
  simp only [Sys2Proof.encode, toNat_wordH, BitVec.toNat_ofNat]
  omega

theorem ftPackUv (v : Half) : Statement (.ftPackUv v) := by
  have := v.isLt
  refine wellFormed_of_row 0x33000000#32 0xFFFF0000#32 16 (by decide) masks_eq.2.2.1 ?_
  simp only [Sys2Proof.encode, toNat_wordH, BitVec.toNat_ofNat]
  omega

theorem ftChgOt (v : Half) : Statement (.ftChgOt v) := by
  have := v.isLt
  refine wellFormed_of_row 0x34000000#32 0xFFFF0000#32 16 (by decide) masks_eq.2.2.1 ?_
  simp only [Sys2Proof.encode, toNat_wordH, BitVec.toNat_ofNat]
  omega

theorem ftChgUt (v : Half) : Statement (.ftChgUt v) := by
  have := v.isLt
  refine wellFormed_of_row 0x35000000#32 0xFFFF0000#32 16 (by decide) masks_eq.2.2.1 ?_
  simp only [Sys2Proof.encode, toNat_wordH, BitVec.toNat_ofNat]
  omega

theorem ftDsgOt (v : Half) : Statement (.ftDsgOt v) := by
  have := v.isLt
  refine wellFormed_of_row 0x36000000#32 0xFFFF0000#32 16 (by decide) masks_eq.2.2.1 ?_
  simp only [Sys2Proof.encode, toNat_wordH, BitVec.toNat_ofNat]
  omega

theorem ftDsgUt (v : Half) : Statement (.ftDsgUt v) := by
  have := v.isLt
  refine wellFormed_of_row 0x37000000#32 0xFFFF0000#32 16 (by decide) masks_eq.2.2.1 ?_
  simp only [Sys2Proof.encode, toNat_wordH, BitVec.toNat_ofNat]
  omega

theorem ftChgOc (v : Half) : Statement (.ftChgOc v) := by
  have := v.isLt
  refine wellFormed_of_row 0x38000000#32 0xFFFF0000#32 16 (by decide) masks_eq.2.2.1 ?_
  simp only [Sys2Proof.encode, toNat_wordH, BitVec.toNat_ofNat]
  omega

theorem ftDsgOc (v : Half) : Statement (.ftDsgOc v) := by
  have := v.isLt
  refine wellFormed_of_row 0x39000000#32 0xFFFF0000#32 16 (by decide) masks_eq.2.2.1 ?_
  simp only [Sys2Proof.encode, toNat_wordH, BitVec.toNat_ofNat]
  omega

theorem ftShort (v : Half) : Statement (.ftShort v) := by
  have := v.isLt
  refine wellFormed_of_row 0x3A000000#32 0xFFFF0000#32 16 (by decide) masks_eq.2.2.1 ?_
  simp only [Sys2Proof.encode, toNat_wordH, BitVec.toNat_ofNat]
  omega

theorem ftIcErr (v : Half) : Statement (.ftIcErr v) := by
  have := v.isLt
  refine wellFormed_of_row 0x3B000000#32 0xFFFF0000#32 16 (by decide) masks_eq.2.2.1 ?_
  simp only [Sys2Proof.encode, toNat_wordH, BitVec.toNat_ofNat]
  omega

theorem ftMosLock (v : Half) : Statement (.ftMosLock v) := by
  have := v.isLt
  refine wellFormed_of_row 0x3C000000#32 0xFFFF0000#32 16 (by decide) masks_eq.2.2.1 ?_
  simp only [Sys2Proof.encode, toNat_wordH, BitVec.toNat_ofNat]
  omega

theorem date (v : Half) : Statement (.date v) := by
  have := v.isLt
  refine wellFormed_of_row 0x40000000#32 0xFFFF0000#32 16 (by decide) masks_eq.2.2.1 ?_
  simp only [Sys2Proof.encode, toNat_wordH, BitVec.toNat_ofNat]
  omega

theorem tempDk (n : Byte) : Statement (.tempDk n) := by
  have := n.isLt
  refine wellFormed_of_row 0x41000000#32 0xFFFFFF00#32 8 (by decide) masks_eq.2.1 ?_
  simp only [Sys2Proof.encode, toNat_wordB, BitVec.toNat_ofNat]
  omega

theorem tempDc (n : Byte) : Statement (.tempDc n) := by
  have := n.isLt
  refine wellFormed_of_row 0x42000000#32 0xFFFFFF00#32 8 (by decide) masks_eq.2.1 ?_
  simp only [Sys2Proof.encode, toNat_wordB, BitVec.toNat_ofNat]
  omega

theorem k2dc (v : Half) : Statement (.k2dc v) := by
  have := v.isLt
  refine wellFormed_of_row 0x43000000#32 0xFFFF0000#32 16 (by decide) masks_eq.2.2.1 ?_
  simp only [Sys2Proof.encode, toNat_wordH, BitVec.toNat_ofNat]
  omega

theorem balBit (n : Byte) : Statement (.balBit n) := by
  have := n.isLt
  refine wellFormed_of_row 0x44000000#32 0xFFFFFF00#32 8 (by decide) masks_eq.2.1 ?_
  simp only [Sys2Proof.encode, toNat_wordB, BitVec.toNat_ofNat]
  omega

theorem balStr : Statement .balStr := by unfold Statement; decide

theorem mosPay (b : Byte) : Statement (.mosPay b) := by
  have := b.isLt
  refine wellFormed_of_row 0x46000000#32 0xFFFFFF00#32 8 (by decide) masks_eq.2.1 ?_
  simp only [Sys2Proof.encode, toNat_wordB, BitVec.toNat_ofNat]
  omega

theorem tgWait : Statement .tgWait := by unfold Statement; decide

theorem tgMark : Statement .tgMark := by unfold Statement; decide

end Sys2Proof.Laws.EncodedRow
end

