-- ==== Sys2Proof/Laws/Step.lean ====
section
/-! SUPPORT. What one step can do, said once: the swap of two clients, one host access, and the induction by which a
property of instances is kept by every step. -/

namespace Sys2Proof.Machine

/-- Seen from another client the bus holds the same instances. -/
theorem everyFcb_swapClient {P : Fcb → Prop} {s : State} (k : Nat) (h : s.everyFcb P) :
    (s.swapClient k).everyFcb P := by
  cases k with
  | zero => exact h
  | succ j =>
    cases hp : s.peers[j]? with
    | none =>
      simp only [State.swapClient, hp]
      exact h
    | some p =>
      simp only [State.swapClient, hp]
      refine ⟨h.2 p (List.mem_of_getElem? hp), ?_⟩
      intro f hf
      rcases List.mem_or_eq_of_mem_set hf with hf | rfl
      · exact h.2 f hf
      · exact h.1

/-- The swap with a client the bus has, as the exchange of two instances. -/
theorem swapClient_succ {j : Nat} {p : Fcb} {s : State} (h : s.peers[j]? = some p) :
    s.swapClient (j + 1) = { s with fcb := p, peers := s.peers.set j s.fcb } := by
  simp only [State.swapClient, h]

/-- A swap keeps everything but the places of two instances. -/
theorem swapClient_keeps (k : Nat) (s : State) :
    (s.swapClient k).now = s.now ∧ (s.swapClient k).shcell = s.shcell ∧ (s.swapClient k).cfg = s.cfg ∧
      (s.swapClient k).agenda = s.agenda ∧ (s.swapClient k).resetLine = s.resetLine ∧
      (s.swapClient k).busReply = s.busReply ∧ (s.swapClient k).peers.length = s.peers.length := by
  cases k with
  | zero => exact ⟨rfl, rfl, rfl, rfl, rfl, rfl, rfl⟩
  | succ j =>
    simp only [State.swapClient]
    cases hp : s.peers[j]? with
    | none => exact ⟨rfl, rfl, rfl, rfl, rfl, rfl, rfl⟩
    | some p => exact ⟨rfl, rfl, rfl, rfl, rfl, rfl, by simp⟩

/-- A step of a client that answers: the client exists, and its step ran on the bus seen from it. -/
theorem asClient_next {k : Nat} {f : State → Host.Outcome State Fault Refusal} {s t : State}
    (h : asClient k f s = .next t) :
    k ≤ s.peers.length ∧ ∃ u, f (s.swapClient k) = .next u ∧ t = u.swapClient k := by
  unfold asClient at h
  split at h
  · cases h
  · rename_i hk
    refine ⟨by omega, ?_⟩
    split at h
    · rename_i u hu
      cases h
      exact ⟨u, hu, rfl⟩
    · cases h
    · cases h

/-- What one accepted host access leaves of its own instance: the instance as it was, a stored register or request byte, a
dropped command, an illegal word, or an executed command. -/
inductive HostEffect (s : State) (g : Fcb) : Prop
  | same (h : g = s.fcb)
  | ctrl (v : Word) (h : g = s.fcb.setCtrl v)
  | delay (v : Word) (h : g = { s.fcb with delay := v })
  | last (v : Word) (h : g = { s.fcb with last := v })
  | request (off : Nat) (b : Byte) (hr : regionOf off = .requestBuffer)
      (h : g = { s.fcb with mem := s.fcb.mem.write off b })
  | dropped (hb : s.fcb.busy = true) (h : g = { s.fcb with cmdDropped := true })
  | illegal (w : Word) (h : g = { s.fcb with cmd := w, cerr := .illegalCommand })
  | command (w : Word) (i : Instr) (u t : State) (hd : decode w = .ok i)
      (hb : s.fcb.busy = false ∨ w = 0x01000000#32) (hu : u.fcb = { s.fcb with cmd := w })
      (hc : u.cfg = s.cfg) (he : exec i u = .next t) (h : g = t.fcb)

/-- What an accepted host access leaves of the rest of the bus. -/
def HostKeeps (s t : State) : Prop :=
  t.peers = s.peers ∧ t.now = s.now ∧ t.resetLine = s.resetLine ∧ t.cfg = s.cfg ∧ t.agenda = s.agenda

/-- What writing a command word can do. -/
theorem commandWrite_cases {w : Word} {s t : State} (h : commandWrite w s = .next t) :
    HostEffect s t.fcb ∧ HostKeeps s t := by
  unfold commandWrite at h
  split at h
  · rename_i hb
    cases h
    exact ⟨.dropped hb.1 rfl, rfl, rfl, rfl, rfl, rfl⟩
  · rename_i hb
    unfold commandWord at h
    cases hd : decode w with
    | error e =>
      rw [hd] at h
      cases h
      exact ⟨.illegal w rfl, rfl, rfl, rfl, rfl, rfl⟩
    | ok i =>
      simp only [hd] at h
      refine ⟨.command w i (s.withFcb { s.fcb with cmd := w }) t hd ?_ rfl rfl h rfl, ?_⟩
      · by_cases hw : w = 0x01000000#32
        · exact .inr hw
        · exact .inl (by simpa [hw] using hb)
      · have := exec_keeps h
        exact ⟨this.1, this.2.1, this.2.2.1, this.2.2.2.1, this.2.2.2.2.1⟩

/-- The reply recorded first changes nothing an effect speaks of. -/
theorem HostEffect_of_withReply {r : BusReply} {s : State} {g : Fcb} (h : HostEffect (s.withReply r) g) :
    HostEffect s g := by
  cases h with
  | same h => exact .same h
  | ctrl v h => exact .ctrl v h
  | delay v h => exact .delay v h
  | last v h => exact .last v h
  | request off b hr h => exact .request off b hr h
  | dropped hb h => exact .dropped hb h
  | illegal w h => exact .illegal w h
  | command w i u t hd hb hu hc he h => exact .command w i u t hd hb hu hc he h

/-- What storing at a writable offset can do. -/
theorem storeAt_cases {off : Nat} {v : Word} {s t : State} (hw : writable off = true) (h : storeAt off v s = .next t) :
    HostEffect s t.fcb ∧ HostKeeps s t := by
  unfold storeAt at h
  split at h
  · exact commandWrite_cases h
  · cases h; exact ⟨.ctrl v rfl, rfl, rfl, rfl, rfl, rfl⟩
  · cases h; exact ⟨.delay v rfl, rfl, rfl, rfl, rfl, rfl⟩
  · cases h; exact ⟨.last v rfl, rfl, rfl, rfl, rfl, rfl⟩
  · cases h; exact ⟨.same rfl, rfl, rfl, rfl, rfl, rfl⟩
  · cases h
    refine ⟨.request off _ ?_ rfl, rfl, rfl, rfl, rfl, rfl⟩
    simp_all [writable]

/-- What one host access that answers can do to its own instance, and that it keeps the rest of the bus. -/
theorem hostAccess_cases {a : Access} {s t : State} (h : hostAccess a s = .next t) :
    HostEffect s t.fcb ∧ HostKeeps s t := by
  cases a with
  | read n addr =>
    simp only [hostAccess] at h
    split at h
    · cases h; exact ⟨.same rfl, rfl, rfl, rfl, rfl, rfl⟩
    · cases h
  | write n addr v =>
    simp only [hostAccess] at h
    split at h
    · unfold busWrite at h
      split at h
      · cases h; exact ⟨.same rfl, rfl, rfl, rfl, rfl, rfl⟩
      · rename_i hn
        split at h
        · cases h; exact ⟨.same rfl, rfl, rfl, rfl, rfl, rfl⟩
        · have hw : writable (addr - s.cfg.base) = true := by
            unfold writeError at hn
            split at hn
            · cases hn
            · split at hn
              · assumption
              · cases hn
          obtain ⟨he, hk⟩ := storeAt_cases hw h
          exact ⟨HostEffect_of_withReply he, hk⟩
    · cases h

/-- What a step can do: a tick, a host access of a client, or a change of the reset input, on the state with the event
taken off the agenda. -/
theorem step_cases {s t : State} (h : step s = .next t) :
    ∃ u : State, u.fcb = s.fcb ∧ u.peers = s.peers ∧ u.now = s.now ∧ u.shcell = s.shcell ∧
      u.resetLine = s.resetLine ∧ u.cfg = s.cfg ∧ u.busReply = s.busReply ∧
      ((s.resetLine = false ∧ t = u.tick) ∨ (s.resetLine = true ∧ t = u) ∨
        (∃ k a, asClient k (hostAccess a) u = .next t) ∨ t = u.assertReset ∨ t = { u with resetLine := false }) := by
  refine ⟨(nextEvent s).2, ?_⟩
  have hk : (nextEvent s).2.fcb = s.fcb ∧ (nextEvent s).2.peers = s.peers ∧ (nextEvent s).2.now = s.now ∧
      (nextEvent s).2.shcell = s.shcell ∧ (nextEvent s).2.resetLine = s.resetLine ∧
      (nextEvent s).2.cfg = s.cfg ∧ (nextEvent s).2.busReply = s.busReply := by
    unfold nextEvent
    split <;> exact ⟨rfl, rfl, rfl, rfl, rfl, rfl, rfl⟩
  refine ⟨hk.1, hk.2.1, hk.2.2.1, hk.2.2.2.1, hk.2.2.2.2.1, hk.2.2.2.2.2.1, hk.2.2.2.2.2.2, ?_⟩
  unfold step runEvent at h
  split at h
  · cases hr : (nextEvent s).2.resetLine with
    | true =>
      rw [hr] at h
      cases h
      exact .inr (.inl ⟨by rw [← hk.2.2.2.2.1, hr], rfl⟩)
    | false =>
      rw [hr] at h
      cases h
      exact .inl ⟨by rw [← hk.2.2.2.2.1, hr], rfl⟩
  · exact .inr (.inr (.inl ⟨_, _, h⟩))
  · cases h; exact .inr (.inr (.inr (.inl rfl)))
  · cases h; exact .inr (.inr (.inr (.inr rfl)))

/-- The induction over a step, packaged once: a property of instances that reset gives, and that a tick, every host
effect and every executed command keep, is kept in every instance by every step. -/
theorem step_keeps_everyFcb (P : Fcb → Prop) {s t : State} (hreset : P Fcb.reset)
    (htick : ∀ f, P f → P f.tick)
    (hhost : ∀ (u : State) (g : Fcb), u.cfg = s.cfg → P u.fcb → HostEffect u g → P g)
    (hs : s.everyFcb P) (h : step s = .next t) : t.everyFcb P := by
  obtain ⟨u, hf, hp, -, -, -, hcfg, -, hcase⟩ := step_cases h
  have hu : u.everyFcb P := by
    refine ⟨by rw [hf]; exact hs.1, ?_⟩
    rw [hp]
    exact hs.2
  rcases hcase with ⟨-, rfl⟩ | ⟨-, rfl⟩ | ⟨k, a, ha⟩ | rfl | rfl
  · refine ⟨htick _ hu.1, ?_⟩
    intro f hf
    obtain ⟨g, hg, rfl⟩ := List.mem_map.mp hf
    exact htick _ (hu.2 g hg)
  · exact hu
  · obtain ⟨-, v, hv, rfl⟩ := asClient_next ha
    obtain ⟨he, hk⟩ := hostAccess_cases hv
    have hw := everyFcb_swapClient k hu
    refine everyFcb_swapClient k ⟨hhost _ _ ?_ hw.1 he, ?_⟩
    · rw [(swapClient_keeps k u).2.2.1, hcfg]
    · rw [hk.1]
      exact hw.2
  · refine ⟨hreset, ?_⟩
    intro f hf
    obtain ⟨g, -, rfl⟩ := List.mem_map.mp hf
    exact hreset
  · exact hu

/-- No step changes the configuration. -/
theorem step_keeps_cfg {s t : State} (h : step s = .next t) : t.cfg = s.cfg := by
  obtain ⟨u, -, -, -, -, -, hcfg, -, hcase⟩ := step_cases h
  rcases hcase with ⟨-, rfl⟩ | ⟨-, rfl⟩ | ⟨k, a, ha⟩ | rfl | rfl
  · exact hcfg
  · exact hcfg
  · obtain ⟨-, v, hv, rfl⟩ := asClient_next ha
    obtain ⟨-, -, -, -, hc, -⟩ := hostAccess_cases hv
    rw [(swapClient_keeps k v).2.2.1, hc, (swapClient_keeps k u).2.2.1, hcfg]
  · exact hcfg
  · exact hcfg

end Sys2Proof.Machine
end

