-- ==== Sys2Proof/Machine/Assembler.lean ====
section
/-! DEFINITION. The assembler notation of R103 with the pseudo-instructions of R104: one line of text as the host bus
accesses it stands for. The machine does not use it. -/

namespace Sys2Proof.Machine

/-- A text without the white space around it. -/
def trimChars (cs : List Char) : List Char :=
  ((cs.dropWhile (fun c => c == ' ' || c == '\t')).reverse.dropWhile (fun c => c == ' ' || c == '\t')).reverse

/-- A text cut at a separating character. -/
def splitChars (sep : Char) (cs : List Char) : List (List Char) :=
  cs.foldr (fun c acc =>
    if c == sep then [] :: acc
    else match acc with
      | [] => [[c]]
      | p :: ps => (c :: p) :: ps) [[]]

/-- The value of a digit in hexadecimal. -/
def digitValue (c : Char) : Option Nat :=
  if '0'.toNat ≤ c.toNat ∧ c.toNat ≤ '9'.toNat then some (c.toNat - '0'.toNat)
  else if 'a'.toNat ≤ c.toNat ∧ c.toNat ≤ 'f'.toNat then some (c.toNat - 'a'.toNat + 10)
  else if 'A'.toNat ≤ c.toNat ∧ c.toNat ≤ 'F'.toNat then some (c.toNat - 'A'.toNat + 10)
  else none

/-- A number in the given radix, its digits from the most significant on. -/
def digitsValue (radix : Nat) (cs : List Char) : Option Nat :=
  match cs with
  | [] => none
  | _ => cs.foldl (fun acc c =>
      match acc, digitValue c with
      | some n, some d => if d < radix then some (n * radix + d) else none
      | _, _ => none) (some 0)

/-- The symbolic constants of R4 (R103). -/
def symbolicConstants : List (String × Nat) :=
  [ ("START_BYTE", 0xDD), ("STOP_BYTE", 0x77), ("DIR_READ", 0xA5), ("DIR_WRITE", 0x5A), ("RC_OK", 0x00),
    ("RC_ERR", 0x80), ("CMD_STATUS", 0x03), ("CMD_CELLS", 0x04), ("CMD_HARDWARE", 0x05), ("CMD_MOSFET", 0xE1),
    ("REQ_MAX_LEN", 30), ("RSP_MAX_LEN", 64), ("MAX_CELLS", 32), ("MAX_NTCS", 8), ("HW_ID_MAX", 31),
    ("TEMP_OFFSET", 2731), ("YEAR_BASE", 2000), ("DELAY_RESET", 60) ]

/-- The entry of a name in a table. -/
def lookupName {α : Type} (name : List Char) (table : List (String × α)) : Option α :=
  (table.find? (fun e => e.1.toList == name)).map (fun e => e.2)

/-- A number of the notation: decimal, 0x hexadecimal, or a symbolic constant (R103). -/
def numberValue (cs : List Char) : Option Nat :=
  match cs with
  | '0' :: 'x' :: ds => digitsValue 16 ds
  | _ =>
    match digitsValue 10 cs with
    | some n => some n
    | none => lookupName cs symbolicConstants

/-- The command a format builds from the operands of a line, each within its field (R103). -/
def formatCommand (fmt : Format) (ops : List Nat) : Option Instr :=
  match fmt, ops with
  | .n mk, [] => some mk
  | .b mk, [x] => if x < 256 then some (mk (BitVec.ofNat 8 x)) else none
  | .h mk, [x] => if x < 65536 then some (mk (BitVec.ofNat 16 x)) else none
  | .c mk, [t, l] => if t < 256 ∧ l < 256 then some (mk (BitVec.ofNat 8 t) (BitVec.ofNat 8 l)) else none
  | .f mk, [d, k, l] =>
    if d < 256 ∧ k < 256 ∧ l < 256 then some (mk (BitVec.ofNat 8 d) (BitVec.ofNat 8 k) (BitVec.ofNat 8 l)) else none
  | _, _ => none

/-- The formats of the opcode map's rows, each under its mnemonic (R98). -/
def mnemonicTable : List (String × Format) :=
  opcodeRows.filterMap (fun r =>
    (opcodeMap (opcodeOf r.matchBits)).map (fun fmt => ((fmt.fill 0#32).mnemonic, fmt)))

/-- The pseudo-instructions without operand, each under its name (R104). -/
def pseudoTable : List (String × Pseudo) :=
  [ ("REQ_STATUS", .reqStatus), ("REQ_CELLS", .reqCells), ("REQ_HARDWARE", .reqHardware), ("RD_VOLTAGE", .rdVoltage),
    ("RD_CURRENT", .rdCurrent), ("RD_REMAIN_CAP", .rdRemainCap), ("RD_NOMINAL_CAP", .rdNominalCap),
    ("RD_CYCLES", .rdCycles), ("RD_PROD_DATE", .rdProdDate), ("RD_BAL_LOW", .rdBalLow), ("RD_BAL_HIGH", .rdBalHigh),
    ("RD_FAULT", .rdFault), ("RD_VERSION", .rdVersion), ("RD_SOC", .rdSoc), ("RD_MOSFET", .rdMosfet),
    ("RD_NCELLS", .rdNcells), ("RD_NNTCS", .rdNntcs) ]

/-- The window offsets of the registers, each under its name (R22). -/
def registerTable : List (String × Nat) :=
  [ ("CMD", 0x000), ("STATUS", 0x004), ("RESULT", 0x008), ("CTRL", 0x00C), ("DELAY", 0x010), ("NOW", 0x014),
    ("LAST", 0x018), ("SHLAST", 0x01C), ("WAITREM", 0x020), ("TXLEN", 0x024), ("RXHDR", 0x028), ("RXCK", 0x02C),
    ("DSTAT", 0x030), ("RXTAIL", 0x034) ]

/-- The buffers' window offsets and lengths, each under its name (R61). -/
def bufferTable : List (String × (Nat × Nat)) :=
  [ ("TXPAY", (0x040, 30)), ("TXFRAME", (0x080, 37)), ("RXPAY", (0x0C0, 64)), ("OUTSTR", (0x100, 33)) ]

/-- The width and window offset a W or R line names: a register, or a buffer byte such as TXPAY[3] (R103). -/
def placeOf (cs : List Char) : Option (Nat × Nat) :=
  match lookupName cs registerTable with
  | some off => some (4, off)
  | none =>
    match splitChars '[' cs with
    | [name, idx] =>
      match lookupName name bufferTable, splitChars ']' idx with
      | some (off, len), [i, []] =>
        match numberValue i with
        | some k => if k < len then some (1, off + k) else none
        | none => none
      | _, _ => none
    | _ => none

/-- The commands a mnemonic line stands for (R103, R104). -/
def commandsOf (name : List Char) (ops : List Nat) : Option (List Instr) :=
  match lookupName name mnemonicTable with
  | some fmt => (formatCommand fmt ops).map (fun i => [i])
  | none =>
    match lookupName name pseudoTable, ops with
    | some p, [] => some p.expand
    | _, [r] => if name == "REQ_MOSFET".toList ∧ r < 256 then some (Pseudo.expand (.reqMosfet (BitVec.ofNat 8 r))) else none
    | _, _ => none

/-- The operands of a line, each a text. -/
def operandTexts (cs : List Char) : List (List Char) :=
  match cs with
  | [] => []
  | _ => (splitChars ',' cs).map trimChars

/-- The host bus accesses a line stands for, the window lying at base; none where the line is not of R103's notation. -/
def assembleLine (base : Nat) (line : String) : Option (List Access) :=
  let text := trimChars (line.toList.takeWhile (fun c => c != ';'))
  let name := text.takeWhile (fun c => c != ' ' && c != '\t')
  let ops := operandTexts (trimChars (text.drop name.length))
  if name == [] then some []
  else if name == ['W'] then
    match ops with
    | [place, v] =>
      match placeOf place, numberValue v with
      | some (n, off), some x => if x < 2 ^ (8 * n) then some [.write n (base + off) (BitVec.ofNat 32 x)] else none
      | _, _ => none
    | _ => none
  else if name == ['R'] then
    match ops with
    | [place] => (placeOf place).map (fun p => [.read p.1 (base + p.2)])
    | _ => none
  else
    match ops.mapM numberValue with
    | some xs => (commandsOf name xs).map (fun is => is.map (fun i => .write 4 base (encode i)))
    | none => none

end Sys2Proof.Machine
end

