-- ==== Sys2Proof/Tests/Slice0.lean ====
section
/-! SUPPORT. The model's own tests: ill-formed words refused, every constructor's encoding written out from the spec,
single steps against the spec's test vectors (95_test_vectors), and witnesses that the obligations' hypotheses can be
met. -/

namespace Sys2Proof.Tests

open Sys2Proof Sys2Proof.Machine

/-! ### Helpers -/

/-- The next state of an outcome, if it is one. -/
def nextOf : Host.Outcome State Fault Refusal → Option State
  | .next t => some t
  | .fault _ => none
  | .refused _ => none

/-- What a test looks at in the state after one step that runs a command word. -/
def after {α : Type} (w : Nat) (s : State) (look : State → α) : Option α :=
  (nextOf (step (s.withFetchWord 32 w))).map look

/-- What a test looks at in the state after one step of an agent. -/
def afterEvent {α : Type} (e : Event) (s : State) (look : State → α) : Option α :=
  (nextOf (step { s with agenda := [e] })).map look

/-- RESULT and CERR. -/
def resultAndError (s : State) : Nat × Nat := (s.fcb.result.toNat, s.fcb.cerr.code.toNat)

/-- The instance of client 0 changed. -/
def withFcb0 (g : Fcb → Fcb) (s : State) : State := { s with fcb := g s.fcb }

/-- A state with a good frame of this payload received, RESULT 0xEEEE. -/
def received (payload : List Byte) : State :=
  withFcb0 (fun f =>
    { f with
      frameOk := true, hstart := 0xDD#8, hlen := BitVec.ofNat 8 payload.length, stopb := 0x77#8, dstate := .done,
      dpos := BitVec.ofNat 7 (payload.length + 7), result := 0xEEEE#32,
      mem := f.mem.writeBytes rxpayBase payload }) State.reset

/-- The payload of program P1's STATUS frame (spec 95, 2.4). -/
def statusPayload : List Byte :=
  [0x14#8, 0x50#8, 0xFA#8, 0x24#8, 0x27#8, 0x10#8, 0x4E#8, 0x20#8, 0x00#8, 0x2A#8, 0x33#8, 0x9F#8, 0x00#8, 0x05#8]
    ++ [0x00#8, 0x08#8, 0x04#8, 0x01#8, 0x10#8, 0x32#8, 0x03#8, 0x14#8, 0x02#8, 0x0B#8, 0xA5#8, 0x0A#8, 0x6B#8]

/-- Program P1's state after its frame. -/
def statusState : State := received statusPayload

/-- Program P3's state after its good frame. -/
def cellsState : State := received [0x0C#8, 0xE4#8, 0x0C#8, 0xE5#8, 0x0C#8, 0xE3#8, 0x0C#8, 0xE6#8]

/-- A decoder in a phase at a position, with three header bytes and a length. -/
def decoding (d : DState) (pos : BitVec 7) (start rc len : Byte) : State :=
  withFcb0 (fun f => { f with dstate := d, dpos := pos, hstart := start, hrc := rc, hlen := len }) State.reset

/-- NOW, LAST and DELAY set. -/
def clock (now last delay : Word) : State :=
  { withFcb0 (fun f => { f with last := last, delay := delay }) State.reset with now := now }

/-- A wait in progress. -/
def waiting (rem : Word) : State :=
  withFcb0 (fun f => { f with busy := true, waitrem := rem, cerr := .noFrame }) State.reset

/-- A bus of two clients. -/
def twoClients : State := State.resetWith { Config.default with nClients := 2 }

/-! ### Words that are no command (R97, R99) -/

theorem test_reserved_opcodes_refused :
    ∀ op ∈ [0x03, 0x0F, 0x15, 0x1F, 0x27, 0x2F, 0x3D, 0x3F, 0x47, 0x4F, 0x52, 0xFF],
      wordWellFormed (BitVec.ofNat 32 (op * 16777216)) = false ∧ opcodeMap (BitVec.ofNat 8 op) = none := by decide

/-- The word is refused by both checks. -/
def refused (w : Word) : Bool := !wordWellFormed w && decodeTableWord 32 w.toNat == none

/-- One word per format with a reserved bit set: the lowest and the highest (R91–R95; format F has none, R96). -/
theorem test_reserved_bits_refused :
    [0x00000001#32, 0x01800000#32, 0x12000001#32, 0x51000001#32].all refused = true ∧
    [0x13000100#32, 0x20800000#32, 0x46000100#32].all refused = true ∧
    [0x25010000#32, 0x3A800000#32, 0x10010300#32, 0x10800000#32].all refused = true := by decide

/-- No word is of two rows of the opcode map (R97, R98). -/
theorem test_rows_disjoint :
    opcodeRows.Pairwise (fun r q => (r.matchBits ^^^ q.matchBits) &&& r.mask &&& q.mask ≠ 0#32) := by decide

/-! ### Every constructor's word, written out from its format and opcode (R91–R98) -/

/-- The word decodes to the command and is the command's encoding. -/
def codes (w : Word) (i : Instr) : Bool := decodeTableWord 32 w.toNat == some i && encode i == w

theorem test_codes_control :
    codes 0b00000000_00000000_00000000_00000000#32 .nop = true ∧
    codes 0b00000001_00000000_00000000_00000000#32 .srst = true ∧
    codes 0b00000010_00000000_00000000_00000000#32 .clrerr = true := by decide

theorem test_codes_codec :
    codes 0b00010000_00000000_11100001_00000010#32 (.cksum 0xE1#8 2#8) = true ∧
    codes 0b00010001_01011010_00010000_00011110#32 (.encode 0x5A#8 0x10#8 30#8) = true ∧
    codes 0b00010010_00000000_00000000_00000000#32 .decStart = true ∧
    codes 0b00010011_00000000_00000000_11011101#32 (.decByte 0xDD#8) = true ∧
    codes 0b00010100_00000000_00000000_00000000#32 .decEos = true := by decide

theorem test_codes_readers :
    codes 0b00100000_00000000_00000000_00010010#32 (.rdU8 18#8) = true ∧
    codes 0b00100001_00000000_00000000_00011001#32 (.rdU16be 25#8) = true ∧
    codes 0b00100010_00000000_00000000_10000001#32 (.rdU16le 129#8) = true ∧
    codes 0b00100011_00000000_00000000_00000010#32 (.rdS16be 2#8) = true ∧
    codes 0b00100100_00000000_00000000_00000010#32 (.rdS16le 2#8) = true ∧
    codes 0b00100101_00000000_11111111_11111101#32 (.bswap16 0xFFFD#16) = true ∧
    codes 0b00100110_00000000_00000000_00101000#32 (.rdCell 40#8) = true := by decide

theorem test_codes_faults_low :
    codes 0b00110000_00000000_00000100_00000001#32 (.ftCellOv 0x0401#16) = true ∧
    codes 0b00110001_00000000_10000000_00000000#32 (.ftCellUv 0x8000#16) = true ∧
    codes 0b00110010_00000000_00000100_00000001#32 (.ftPackOv 0x0401#16) = true ∧
    codes 0b00110011_00000000_00000100_00000001#32 (.ftPackUv 0x0401#16) = true ∧
    codes 0b00110100_00000000_00000100_00000001#32 (.ftChgOt 0x0401#16) = true ∧
    codes 0b00110101_00000000_00000100_00000001#32 (.ftChgUt 0x0401#16) = true := by decide

theorem test_codes_faults_high :
    codes 0b00110110_00000000_00000100_00000001#32 (.ftDsgOt 0x0401#16) = true ∧
    codes 0b00110111_00000000_00000100_00000001#32 (.ftDsgUt 0x0401#16) = true ∧
    codes 0b00111000_00000000_00000100_00000001#32 (.ftChgOc 0x0401#16) = true ∧
    codes 0b00111001_00000000_00000100_00000001#32 (.ftDsgOc 0x0401#16) = true ∧
    codes 0b00111010_00000000_00000100_00000001#32 (.ftShort 0x0401#16) = true ∧
    codes 0b00111011_00000000_00000100_00000001#32 (.ftIcErr 0x0401#16) = true ∧
    codes 0b00111100_00000000_00000100_00000001#32 (.ftMosLock 0x0401#16) = true := by decide

theorem test_codes_status :
    codes 0b01000000_00000000_00110011_10011111#32 (.date 0x339F#16) = true ∧
    codes 0b01000001_00000000_00000000_00000001#32 (.tempDk 1#8) = true ∧
    codes 0b01000010_00000000_00000000_10000001#32 (.tempDc 129#8) = true ∧
    codes 0b01000011_00000000_00001010_10101011#32 (.k2dc 0x0AAB#16) = true ∧
    codes 0b01000100_00000000_00000000_00010100#32 (.balBit 20#8) = true ∧
    codes 0b01000101_00000000_00000000_00000000#32 .balStr = true ∧
    codes 0b01000110_00000000_00000000_11111111#32 (.mosPay 0xFF#8) = true := by decide

theorem test_codes_timing :
    codes 0b01010000_00000000_00000000_00000000#32 .tgWait = true ∧
    codes 0b01010001_00000000_00000000_00000000#32 .tgMark = true := by decide

/-- Lines of R103's notation, with the words programs P1 and P2 show beside them. -/
theorem test_assembler :
    assembleLine 0x1000 "  ENCODE DIR_WRITE, CMD_MOSFET, 2 ; mosfet" = some [.write 4 0x1000 0x115AE102#32] ∧
    assembleLine 0x1000 "RD_PROD_DATE" = some [.write 4 0x1000 0x2100000A#32] ∧
    assembleLine 0x1000 "W LAST, 950" = some [.write 4 0x1018 950#32] := by decide

/-! ### Control, errors and bus (spec 95, 2.7) -/

/-- C1. -/
theorem test_nop :
    after 0x00000000 (withFcb0 (fun f => { f with cerr := .noFrame }) State.reset) (fun t => t.fcb.cerr) =
      some .ok := by decide

/-- C2. -/
theorem test_clrerr :
    after 0x02000000 (withFcb0 (fun f => { f with cmdDropped := true, extraBytes := true }) State.reset)
      (fun t => t.fcb.statusWord) = some 0#32 := by decide

/-- C7. -/
theorem test_srst_during_wait :
    after 0x01000000 { waiting 12#32 with now := 48#32 }
      (fun t => (t.fcb.statusWord, t.fcb.waitrem, t.now, t.fcb.cmd, t.fcb.delay)) =
      some (0#32, 0#32, 48#32, 0x01000000#32, 60#32) := by decide

/-- C6. -/
theorem test_near_srst_dropped :
    after 0x01000001 (waiting 12#32) (fun t => (t.fcb.cmdDropped, t.fcb.cmd, t.fcb.cerr)) =
      some (true, 0#32, .noFrame) := by decide

/-- C3 and C4. -/
theorem test_illegal_command :
    after 0x03000000 State.reset (fun t => (t.fcb.cerr.code, t.fcb.cmd)) = some (9#4, 0x03000000#32) ∧
    after 0x12000001 State.reset (fun t => (t.fcb.cerr.code, t.fcb.dstate)) = some (9#4, .idle) := by decide

/-- C8 to C11. -/
theorem test_bus :
    afterEvent (.access 0 (.write 4 0x004 7#32)) State.reset (fun t => (t.busReply, t.fcb)) =
      some (.error (.readOnly 0x004), Fcb.reset) ∧
    afterEvent (.access 0 (.read 1 0x004)) State.reset State.busReply = some (.error (.wrongWidth 4 1)) ∧
    afterEvent (.access 0 (.write 4 0x00C 0xFFFFFFFF#32)) State.reset (fun t => t.fcb.ctrlWord) = some 3#32 ∧
    afterEvent (.access 0 (.write 1 0x0C0 1#32)) State.reset (fun t => (t.busReply, t.fcb)) =
      some (.error (.readOnly 0x0C0), Fcb.reset) := by decide

/-- The reset values software reads (R320, R22). -/
theorem test_reset_reads :
    afterEvent (.access 0 (.read 4 0x00C)) State.reset State.busReply = some (.word 2#32) ∧
    afterEvent (.access 0 (.read 4 0x010)) State.reset State.busReply = some (.word 60#32) ∧
    afterEvent (.access 0 (.read 1 0x120)) State.reset State.busReply = some (.byte 0#8) := by decide

/-! ### Frame codec (spec 95, 2.1 to 2.3) -/

/-- K9. -/
theorem test_cksum_mosfet :
    after 0x1000E102 (withFcb0 (fun f => { f with mem := [(0x041, 2#8)] }) State.reset) resultAndError =
      some (0xFF1B, 0) := by decide

/-- K11. -/
theorem test_cksum_too_long : after 0x1000031F statusState resultAndError = some (0, 1) := by decide

/-- N1. -/
theorem test_encode_status :
    after 0x11A50300 State.reset (fun t => (t.fcb.mem.readBytes 0x080 7, t.fcb.txlen, t.fcb.statusWord)) =
      some ([0xDD#8, 0xA5#8, 0x03#8, 0x00#8, 0xFF#8, 0xFD#8, 0x77#8], 7#6, 4#32) := by decide

/-- N2: LO_FIRST. -/
theorem test_encode_lo_first :
    after 0x11A50300 (State.resetWith { Config.default with wireCksumOrder := .loFirst })
      (fun t => t.fcb.mem.readBytes 0x080 7) =
      some [0xDD#8, 0xA5#8, 0x03#8, 0x00#8, 0xFD#8, 0xFF#8, 0x77#8] := by decide

/-- DEC_START gives DSTAT = 0x00000010 (spec 95, 2.3). -/
theorem test_dec_start : after 0x12000000 statusState (fun t => t.fcb.dstatWord) = some 0x10#32 := by decide

/-- T3: the fourth byte of DC E1 00 00. -/
theorem test_dec_byte_bad_start :
    after 0x13000000 (decoding .hdr 3#7 0xDC#8 0#8 0#8) (fun t => t.fcb.dstatWord) = some 0x443#32 := by decide

/-- T1: the last byte of DD E1 00 00 00 00 77. -/
theorem test_dec_byte_good_frame :
    after 0x13000077 (decoding .tail 6#7 0xDD#8 0#8 0#8) (fun t => (t.fcb.dstatWord, t.fcb.statusWord)) =
      some (0x740#32, 2#32) := by decide

/-- T16. -/
theorem test_dec_eos :
    after 0x14000000 (decoding .pay 5#7 0xDD#8 0#8 0x1B#8) (fun t => t.fcb.dstatWord) = some 0x542#32 := by decide

/-! ### Readers (spec 95, 2.4) -/

/-- X8 and X13. -/
theorem test_rd_u8 :
    after 0x20000012 statusState resultAndError = some (0x10, 0) ∧
    after 0x2000001B statusState resultAndError = some (0xEEEE, 12) := by decide

/-- X1 and X14. -/
theorem test_rd_u16be :
    after 0x21000000 statusState resultAndError = some (0x1450, 0) ∧
    after 0x2100001A statusState resultAndError = some (0xEEEE, 12) := by decide

/-- X9. -/
theorem test_rd_u16le : after 0x22000000 statusState resultAndError = some (0x5014, 0) := by decide

/-- X2. -/
theorem test_rd_s16be : after 0x23000002 statusState resultAndError = some (0xFFFFFA24, 0) := by decide

/-- X10. -/
theorem test_rd_s16le : after 0x24000002 statusState resultAndError = some (0x24FA, 0) := by decide

/-- X19. -/
theorem test_bswap16 : after 0x2500FFFD State.reset resultAndError = some (0xFDFF, 0) := by decide

/-- X22 and X23. -/
theorem test_rd_cell :
    after 0x26000003 cellsState resultAndError = some (0x0CE6, 0) ∧
    after 0x26000004 cellsState resultAndError = some (0xEEEE, 12) := by decide

/-- X25: the index is refused before the frame. -/
theorem test_rd_cell_index_first : after 0x26000028 State.reset resultAndError = some (0, 10) := by decide

/-! ### Status decode (spec 95, 2.5) -/

/-- F1: the thirteen fault tests of 0x0401. -/
theorem test_fault_tests_of_0401 :
    (List.range 13).map (fun j => after ((0x30 + j) * 16777216 + 0x0401) State.reset resultAndError) =
      [1, 0, 0, 0, 0, 0, 0, 0, 0, 0, 1, 0, 0].map (fun b => some (b, 0)) := by decide

/-- F3: the unused bits. -/
theorem test_fault_tests_of_E000 :
    ∀ j < 13, after ((0x30 + j) * 16777216 + 0xE000) State.reset resultAndError = some (0, 0) := by decide

/-- D1 and D4. -/
theorem test_date :
    after 0x4000339F State.reset resultAndError = some (0x07E90C1F, 0) ∧
    after 0x4000FFFF State.reset resultAndError = some (0x084F0F1F, 0) := by decide

/-- E1, E4. -/
theorem test_temp_dk :
    after 0x41000000 statusState resultAndError = some (0x0BA5, 0) ∧
    after 0x41000002 statusState resultAndError = some (0xEEEE, 12) := by decide

/-- E3. -/
theorem test_temp_dc : after 0x42000001 statusState resultAndError = some (0xFFFFFFC0, 0) := by decide

/-- E7. -/
theorem test_k2dc :
    after 0x43000000 State.reset resultAndError = some (0xFFFFF555, 0) ∧
    after 0x4300FFFF State.reset resultAndError = some (0xF554, 0) := by decide

/-- B1 and B2. -/
theorem test_bal_bit :
    after 0x44000014 statusState resultAndError = some (1, 0) ∧
    after 0x44000021 statusState resultAndError = some (0xEEEE, 10) := by decide

/-- B3: "10100000000000000001" and the terminator. -/
theorem test_bal_str :
    after 0x45000000 statusState (fun t => (t.fcb.result.toNat, t.fcb.mem.readBytes 0x100 21)) =
      some (20, [0x31#8, 0x30#8, 0x31#8] ++ List.replicate 16 0x30#8 ++ [0x31#8, 0x00#8]) := by decide

/-- M1 and N17. -/
theorem test_mos_pay :
    after 0x46000001 State.reset (fun t => (t.fcb.result.toNat, t.fcb.mem.readBytes 0x040 2)) =
      some (2, [0x00#8, 0x02#8]) ∧
    after 0x46000004 State.reset resultAndError = some (3, 0) := by decide

/-! ### Timing guard (spec 95, 2.6) -/

/-- G1 and G7. -/
theorem test_tg_wait :
    after 0x50000000 (clock 110#32 100#32 60#32) (fun t => (t.fcb.busy, t.fcb.waitrem, t.fcb.result)) =
      some (true, 50#32, 50#32) ∧
    after 0x50000000 (clock 5#32 0xFFFFFFF0#32 60#32) (fun t => (t.fcb.busy, t.fcb.waitrem)) =
      some (true, 39#32) := by decide

/-- G2 and G8: no wait. -/
theorem test_tg_wait_elapsed :
    after 0x50000000 (clock 160#32 100#32 60#32) (fun t => (t.fcb.busy, t.fcb.waitrem)) = some (false, 0#32) ∧
    after 0x50000000 (clock 100#32 200#32 60#32) (fun t => (t.fcb.busy, t.fcb.waitrem)) = some (false, 0#32) := by decide

/-- G10 and G11. -/
theorem test_tg_mark :
    after 0x51000000 (clock 230#32 0#32 60#32) (fun t => (t.fcb.last, t.fcb.result, t.shcell)) =
      some (230#32, 230#32, 0#32) ∧
    after 0x51000000 (withFcb0 (fun f => { f with sharedTs := true }) (clock 230#32 7#32 60#32))
      (fun t => (t.fcb.last, t.shcell)) = some (7#32, 230#32) := by decide

/-- R250 and R254: a tick, and the tick that ends a wait. -/
theorem test_tick :
    afterEvent .tick { waiting 2#32 with now := 0xFFFFFFFF#32 } (fun t => (t.now, t.fcb.waitrem, t.fcb.busy)) =
      some (0#32, 1#32, true) ∧
    afterEvent .tick (waiting 1#32) (fun t => (t.fcb.waitrem, t.fcb.busy, t.fcb.cerr)) =
      some (0#32, false, .ok) := by decide

/-- R295: a command of client 1 acts on its own instance. -/
theorem test_second_client :
    afterEvent (.access 1 (.write 4 0 0x2500FFFD#32)) twoClients
      (fun t => (t.fcb, t.peers.map (fun f => f.result))) = some (Fcb.reset, [0xFDFF#32]) := by decide

/-- Log 4: from reset with nothing placed, a step is a tick. -/
theorem test_step_from_reset : (nextOf (step State.reset)).map (fun t => (t.now, t.fcb)) = some (1#32, Fcb.reset) := by
  decide

/-! ### Witnesses: states and operands that meet an obligation's hypotheses together, clause by clause -/

/-- A state whose configuration has the sentinel. -/
def sentinelState : State := State.resetWith { Config.default with sentinelCompat := true }

/-- A received frame with one payload byte set: the cells byte of R220. -/
def cellsByte (c : Byte) : State := received (statusPayload.take 21 ++ [c])

/-- EncodeOfDecodeIsIdentity. -/
theorem witness_decodes : decode 0x1000E102#32 = .ok (.cksum 0xE1#8 2#8) := rfl

/-- CommandWordIsMapRowOrIllegal, the first two clauses: the last opcode of the map and the first one after it. -/
theorem witness_map_row : wordWellFormed 0x51000000#32 = true ∧ wordWellFormed 0x52000000#32 = false := by decide

/-- CommandWordIsMapRowOrIllegal, the third clause: both ends of every range of reserved opcodes. -/
theorem witness_reserved_ranges :
    ∀ op ∈ [0x03, 0x0F, 0x15, 0x1F, 0x27, 0x2F, 0x3D, 0x3F, 0x47, 0x4F, 0x52, 0xFF],
      let w : Word := BitVec.ofNat 32 (op * 16777216)
      0x03 ≤ (w.extractLsb' 24 8).toNat ∧ (w.extractLsb' 24 8).toNat ≤ 0x0F ∨
      0x15 ≤ (w.extractLsb' 24 8).toNat ∧ (w.extractLsb' 24 8).toNat ≤ 0x1F ∨
      0x27 ≤ (w.extractLsb' 24 8).toNat ∧ (w.extractLsb' 24 8).toNat ≤ 0x2F ∨
      0x3D ≤ (w.extractLsb' 24 8).toNat ∧ (w.extractLsb' 24 8).toNat ≤ 0x3F ∨
      0x47 ≤ (w.extractLsb' 24 8).toNat ∧ (w.extractLsb' 24 8).toNat ≤ 0x4F ∨
      0x52 ≤ (w.extractLsb' 24 8).toNat := by decide

/-- StepRunsDecodedCommand: the last command of the map, and the first word after it. -/
theorem witness_step_runs :
    decode 0x51000000#32 = .ok .tgMark ∧ wordWellFormed 0x52000000#32 = false ∧ statusState.fcb.busy = false ∧
    statusState.resetLine = false := ⟨rfl, by decide, rfl, rfl⟩

/-- BusyDropsAllButSoftReset: the word nearest to SRST's. -/
theorem witness_busy :
    (waiting 12#32).fcb.busy = true ∧ (waiting 12#32).resetLine = false ∧ 0x01000001#32 ≠ 0x01000000#32 := by decide

/-- The word of this opcode with this reserved bit set is one IllegalWhenReserved speaks of. -/
def reservedBitSet (op : Byte) (mask : Word) (bit : Nat) : Bool :=
  opcodeOf (wordN op ||| BitVec.twoPow 32 bit) == op && (wordN op ||| BitVec.twoPow 32 bit) &&& mask != 0#32

/-- IllegalWhenReserved at every opcode it is stated for: the lowest and the highest reserved bit. -/
theorem witness_reserved_bits :
    (∀ op ∈ [0x00#8, 0x01#8, 0x02#8, 0x12#8, 0x14#8, 0x45#8, 0x50#8, 0x51#8],
      reservedBitSet op 0x00FFFFFF#32 0 = true ∧ reservedBitSet op 0x00FFFFFF#32 23 = true) ∧
    (∀ op ∈ [0x13#8, 0x20#8, 0x21#8, 0x22#8, 0x23#8, 0x24#8, 0x26#8, 0x41#8, 0x42#8, 0x44#8, 0x46#8],
      reservedBitSet op 0x00FFFF00#32 8 = true ∧ reservedBitSet op 0x00FFFF00#32 23 = true) ∧
    (∀ op ∈ [0x10#8, 0x25#8, 0x30#8, 0x36#8, 0x37#8, 0x3C#8, 0x40#8, 0x43#8],
      reservedBitSet op 0x00FF0000#32 16 = true ∧ reservedBitSet op 0x00FF0000#32 23 = true) := by decide

/-- ResetLeavesResetValues. -/
theorem witness_reset :
    State.reset.fcb = Fcb.reset ∧ State.reset.now = 0#32 ∧ State.reset.shcell = 0#32 ∧ 1 ≤ Config.default.nClients := by
  decide

/-- ChecksumIsAdditive. -/
theorem witness_perm : [1#8, 2#8, 3#8].Perm [3#8, 1#8, 2#8] := by decide

/-- SentinelChangesOnlyTheZeroRequest: the longest payload, the commands next to the zero request, and the sentinel on
and off. -/
theorem witness_not_zero_request :
    (30#8).toNat ≤ 30 ∧ Instr.cksum 0#8 1#8 ≠ .cksum 0#8 0#8 ∧ Instr.encode 0xA5#8 1#8 0#8 ≠ .encode 0xA5#8 0#8 0#8 ∧
    sentinelState.cfg.sentinelCompat = true ∧ State.reset.cfg.sentinelCompat = false := by decide

/-- K5: the zero request with the sentinel on. -/
theorem test_sentinel : after 0x10000000 sentinelState resultAndError = some (0, 1) := by decide

/-- EncodeBuildsRequestFrame: a direction next to WRITE's, the two refusals at their bounds, and the longest and the
shortest frame, the shortest with the sentinel on. -/
theorem witness_encode :
    (0x5B#8 ≠ 0xA5#8 ∧ 0x5B#8 ≠ 0x5A#8) ∧ 31 ≤ (31#8).toNat ∧
    (sentinelState.cfg.sentinelCompat = true ∧ ckNat 0 0 (sentinelState.fcb.txSum 0) = 0) ∧
    ((30#8).toNat ≤ 30 ∧ State.reset.cfg.sentinelCompat = false ∧ State.reset.fcb.memCanonical) ∧
    (ckNat 1 0 (sentinelState.fcb.txSum 0) ≠ 0 ∧ sentinelState.fcb.memCanonical) := by decide

/-- UnexpectedByteSetsExtraBytes. -/
theorem witness_unexpected_byte : State.reset.fcb.dstate = .idle ∧ statusState.fcb.dstate = .done := by decide

/-- HeaderBytesAndHeaderCheck: each header position. -/
theorem witness_header :
    ∀ pos ∈ [0#7, 1#7, 2#7, 3#7], (decoding .hdr pos 0xDD#8 0#8 0#8).fcb.dstate = .hdr ∧
      (decoding .hdr pos 0xDD#8 0#8 0#8).fcb.dpos = pos ∧ (decoding .hdr pos 0xDD#8 0#8 0#8).fcb.decodeInv := by decide

/-- HeaderBytesAndHeaderCheck, the fourth byte: each branch at its bound (T3, T4, T20, T21, and a length of 64). -/
theorem witness_header_check :
    after 0x13000041 (decoding .hdr 3#7 0xDC#8 0#8 0#8) (fun t => t.fcb.dcode) = some .badStart ∧
    after 0x13000041 (decoding .hdr 3#7 0xDD#8 0#8 0#8) (fun t => t.fcb.dcode) = some .oversizedLength ∧
    after 0x13000001 (withFcb0 (fun f => { f with destEn := false }) (decoding .hdr 3#7 0xDD#8 0#8 0#8))
      (fun t => t.fcb.dcode) = some .missingDest ∧
    after 0x13000000 (decoding .hdr 3#7 0xDD#8 0#8 0#8) (fun t => t.fcb.dstate) = some .tail ∧
    after 0x13000040 (decoding .hdr 3#7 0xDD#8 0#8 0#8) (fun t => t.fcb.dstate) = some .pay := by decide

/-- PayloadBytesFillRxpay: the first and the last byte of the longest payload. -/
theorem witness_payload :
    ∀ pos ∈ [4#7, 67#7], (decoding .pay pos 0xDD#8 0#8 64#8).fcb.dstate = .pay ∧
      (decoding .pay pos 0xDD#8 0#8 64#8).fcb.decodeInv ∧ (decoding .pay pos 0xDD#8 0#8 64#8).fcb.memCanonical := by
  decide

/-- TrailerCheckOrder: the three positions, of the shortest and of the longest frame. -/
theorem witness_trailer :
    ∀ len ∈ [0, 64], ∀ j ∈ [4, 5, 6],
      let s := decoding .tail (BitVec.ofNat 7 (j + len)) 0xDD#8 0#8 (BitVec.ofNat 8 len)
      s.fcb.dstate = .tail ∧ s.fcb.decodeInv ∧ s.fcb.dpos.toNat = j + s.fcb.hlen.toNat := by decide

/-- TrailerCheckOrder, the stop byte: each outcome (T8, T7, T9's returncode with its checksum, T1). -/
theorem witness_trailer_check :
    after 0x13000078 (withFcb0 (fun f => { f with ck1 := 1#8 }) (decoding .tail 6#7 0xDD#8 0#8 0#8))
      (fun t => t.fcb.dcode) = some .checksumMismatch ∧
    after 0x13000078 (decoding .tail 6#7 0xDD#8 0#8 0#8) (fun t => t.fcb.dcode) = some .badStop ∧
    after 0x13000077 (withFcb0 (fun f => { f with ck0 := 0xFF#8, ck1 := 0xFF#8 }) (decoding .tail 6#7 0xDD#8 1#8 0#8))
      (fun t => t.fcb.dcode) = some .deviceError := by decide

/-- DecoderMeetsFrameVerdict, SingleCorruptionIsDetected, EncodedFramesDecode, MosfetPayloadResult and HostWritesStore. -/
theorem witness_canonical :
    statusState.fcb.memCanonical ∧ statusState.fcb.destEn = true ∧ statusState.resetLine = false := by decide

/-- DecoderMeetsFrameVerdict: the verdicts of T1, T2, T4, T8 and of a frame one byte short. -/
theorem witness_verdicts :
    frameVerdict .hiFirst true [0xDD#8, 0xE1#8, 0#8, 0#8, 0#8, 0#8, 0x77#8] = some .ok ∧
    frameVerdict .hiFirst true [0xDD#8, 0xE1#8, 0x80#8, 0#8, 0xFF#8, 0x80#8, 0x77#8] = some .deviceError ∧
    frameVerdict .hiFirst true [0xDD#8, 0x03#8, 0#8, 0x41#8] = some .oversizedLength ∧
    frameVerdict .hiFirst true [0xDD#8, 0xE1#8, 0#8, 0#8, 0#8, 1#8, 0x78#8] = some .checksumMismatch ∧
    frameVerdict .hiFirst true [0xDD#8, 0xE1#8, 0#8, 0#8, 0#8, 0#8] = none := by decide

/-- EncodedFramesDecode, the first clause, and the length bound of the second. -/
theorem witness_encoded :
    (∃ t, exec (.encode 0xA5#8 0x03#8 0#8) State.reset = .next t ∧ t.fcb.txOk = true) ∧
    (List.replicate 64 0xFF#8).length ≤ 64 := ⟨⟨_, rfl, by decide⟩, by decide⟩

/-- SingleCorruptionIsDetected: every byte of T14's frame but its length, changed, the three payload bytes among them, and
the last payload byte of the longest frame. -/
theorem witness_payload_corruption :
    (∀ j ∈ [0, 1, 2, 4, 5, 6, 7, 8, 9],
      let good := frameBytes .hiFirst 0x05#8 0#8 0#8 3#8 [0x41#8, 0x42#8, 0x43#8]
      j < good.length ∧ good.getD j 0#8 ≠ 0xF0#8 ∧ j ≠ 3) ∧
    67 < (frameBytes .hiFirst 0x05#8 0#8 0#8 64#8 (List.replicate 64 0xFF#8)).length ∧
    (frameBytes .hiFirst 0x05#8 0#8 0#8 64#8 (List.replicate 64 0xFF#8)).getD 67 0#8 ≠ 0xF0#8 := by decide

/-- SingleCorruptionIsDetected: every byte of the shortest good frame but its length, changed. -/
theorem witness_corruption :
    ∀ j ∈ [0, 1, 2, 4, 5, 6],
      let good := frameBytes .hiFirst 0xE1#8 0#8 0#8 0#8 []
      j < good.length ∧ good.getD j 0#8 ≠ 0xF0#8 ∧ j ≠ 3 := by decide

/-- ReadersAreGatedByTheFrame: without a frame, and past the end of one, for each shape of reader. -/
theorem witness_gate :
    State.reset.fcb.frameOk = false ∧ statusState.fcb.frameOk = true ∧
    (payloadRange (.rdU8 27#8) = some (27, 1) ∧ statusState.fcb.hlen.toNat < 27 + 1) ∧
    (payloadRange (.rdS16le 26#8) = some (26, 2) ∧ statusState.fcb.hlen.toNat < 26 + 2) ∧
    (payloadRange (.rdCell 31#8) = some (62, 2) ∧ statusState.fcb.hlen.toNat < 62 + 2) ∧
    (payloadRange (.tempDc 7#8) = some (22, 1) ∧ payloadRange (.balBit 32#8) = some (12, 4) ∧
      payloadRange .balStr = some (12, 10) ∧ cellsState.fcb.hlen.toNat < 12 + 4) ∧
    25 + 2 ≤ statusState.fcb.hlen.toNat ∧ 26 + 1 ≤ statusState.fcb.hlen.toNat := by decide

/-- ReadersAreGatedByTheFrame, the last clause: memory that differs from the frame's only past its payload. -/
theorem witness_outside_payload :
    (payloadRange .balStr).isSome = true ∧
    (∀ k < statusState.fcb.hlen.toNat,
      (statusState.fcb.mem.write (0x0C0 + 27) 0x55#8).read (0x0C0 + k) = statusState.fcb.rxpay k) := by decide

/-- ReadersAgree: the last field of the payload. -/
theorem witness_readers : statusState.fcb.frameOk = true ∧ (25#8).toNat + 2 ≤ statusState.fcb.hlen.toNat := by decide

/-- TEMP_DK and TEMP_DC: the last sensor index with room, the first refused one, and the two range checks (E4 to E6). -/
theorem witness_temperature :
    after 0x41000007 statusState resultAndError = some (0xEEEE, 12) ∧
    after 0x42000008 statusState resultAndError = some (0xEEEE, 10) ∧
    after 0x41000000 (received (statusPayload.take 20)) resultAndError = some (0xEEEE, 12) ∧
    after 0x42000000 (received (statusPayload.take 24)) resultAndError = some (0xEEEE, 12) := by decide

/-- BalanceStringResult: one byte short of its range, exactly its range, and the cap of 32 (B4 to B6). -/
theorem witness_balance_string :
    ((received (statusPayload.take 21)).fcb.frameOk = true ∧ (received (statusPayload.take 21)).fcb.hlen.toNat < 22) ∧
    ((cellsByte 0#8).fcb.frameOk = true ∧ 22 ≤ (cellsByte 0#8).fcb.hlen.toNat ∧ (cellsByte 0#8).fcb.memCanonical) ∧
    after 0x45000000 (cellsByte 0#8) (fun t => (t.fcb.result, t.fcb.outstr 0)) = some (0#32, 0#8) ∧
    after 0x45000000 (cellsByte 40#8) (fun t => (t.fcb.result, t.fcb.outstr 32)) = some (0x20#32, 0#8) := by decide

/-- TickAdvancesEveryInstance: an instance that does not wait, one that ends its wait and one that goes on waiting. -/
theorem witness_tick :
    ∀ f ∈ [Fcb.reset, (waiting 1#32).fcb, (waiting 60#32).fcb], f.waitInv := by decide

/-- TickAdvancesEveryInstance and StepKeepsWaitConsistent. -/
theorem witness_tick_bus : State.reset.resetLine = false ∧ twoClients.everyFcb Fcb.waitInv := by decide

/-- TimedWaitRunsExactly: the shortest wait (G3), and a write of DELAY during a wait (G9). -/
theorem witness_wait :
    ((clock 59#32 0#32 60#32).fcb.busy = false ∧
      ∃ t, exec .tgWait (clock 59#32 0#32 60#32) = .next t ∧ t.fcb.busy = true) ∧
    afterEvent (.access 0 (.write 4 (0 + 0x010) 1000#32)) (waiting 50#32) (fun t => (t.fcb.waitrem, t.fcb.delay)) =
      some (50#32, 1000#32) := ⟨⟨rfl, _, rfl, by decide⟩, by decide⟩

/-- TransactionsKeepMinimumDelay: the next wait one tick after the mark. -/
theorem witness_mark_then_wait :
    (clock 230#32 0#32 60#32).fcb.busy = false ∧ 1 < 4294967296 ∧
    ∃ marked u, exec .tgMark (clock 230#32 0#32 60#32) = .next marked ∧ exec .tgWait (ticks 1 marked) = .next u :=
  ⟨rfl, by decide, _, _, rfl, rfl⟩

/-- BusErrorsChangeNothing: accesses next to the allowed ones, at the edges of the window's regions (R61). -/
theorem witness_bus_errors :
    ∀ p ∈ [(4, 0x038), (1, 0x03F), (1, 0x05E), (1, 0x07F), (1, 0x0A5), (1, 0x0BF), (1, 0x121), (1, 0x1FF), (1, 0x000),
        (4, 0x001), (4, 0x040), (2, 0x0C0), (4, 0x100)],
      (p.2 : Nat) < 0x200 ∧ ¬ ((p.2 < 0x038 ∧ p.1 = 4 ∧ p.2 % 4 = 0) ∨
        (((0x040 ≤ p.2 ∧ p.2 ≤ 0x05D) ∨ (0x080 ≤ p.2 ∧ p.2 ≤ 0x0A4) ∨ (0x0C0 ≤ p.2 ∧ p.2 ≤ 0x120)) ∧ p.1 = 1)) := by
  decide

/-- BusErrorsChangeNothing: the read-only places. -/
theorem witness_read_only :
    ∀ p ∈ [(4, 0x004), (4, 0x008), (4, 0x014), (4, 0x020), (4, 0x034), (1, 0x080), (1, 0x0A4), (1, 0x0C0), (1, 0x120)],
      accessError p.1 p.2 = none ∧ writeError p.1 p.2 = some (.readOnly p.2) := by decide

/-- ReadsAnswerAndChangeNothing: the edges of the buffers. -/
theorem witness_reads :
    ∀ off ∈ [0x040, 0x05D, 0x080, 0x0A4, 0x0C0, 0x0FF, 0x100, 0x120],
      afterEvent (.access 0 (.read 1 off)) State.reset State.busReply = some (.byte 0#8) := by decide

/-- HostWritesStore: the last byte of TXPAY. -/
theorem witness_txpay_write :
    29 < 30 ∧ afterEvent (.access 0 (.write 1 (0x040 + 29) 0x155#32)) State.reset (fun t => t.fcb.txpay 29) =
      some 0x55#8 := by decide

/-- ClientsDoNotTouchEachOther, and the StepKeeps statements: a step of the second client. -/
theorem witness_client_step :
    (∃ t, step { twoClients with agenda := [.access 1 (.write 4 0 0x12000000#32)] } = .next t) ∧ 0 ≠ 1 ∧
    twoClients.peers[0]? = some Fcb.reset := ⟨⟨_, rfl⟩, by decide, rfl⟩

/-- RegistersHaveTheirWriters, FrameOutcomeHasItsWriters and AnsweringCommandsFrame. -/
theorem witness_next :
    (∃ t, exec (.decByte 0x77#8) (decoding .tail 6#7 0xDD#8 0#8 0#8) = .next t ∧ t.fcb.frameOk = true) ∧
    (∃ t, exec (.decByte 0x77#8) statusState = .next t) ∧ statusState.fcb.dstate = .done ∧
    (answersOnly (.rdU8 0#8) = true ∧ ∃ t, exec (.rdU8 0#8) statusState = .next t) :=
  ⟨⟨_, rfl, by decide⟩, ⟨_, rfl⟩, rfl, rfl, _, rfl⟩

/-- StickyFlagsHaveTheirEvents: each flag set by its event, and each cleared. -/
theorem witness_sticky :
    afterEvent (.access 0 (.write 4 0 0x12000000#32)) (waiting 12#32) (fun t => t.fcb.cmdDropped) = some true ∧
    afterEvent (.access 0 (.write 4 0 0x13000055#32)) State.reset (fun t => t.fcb.extraBytes) = some true ∧
    afterEvent (.reset true) (withFcb0 (fun f => { f with cmdDropped := true, extraBytes := true }) State.reset)
      (fun t => (t.fcb.cmdDropped, t.fcb.extraBytes)) = some (false, false) := by decide

/-- ErrorsLeaveStateUnchanged: each of its three forms. -/
theorem witness_errors :
    (∃ t, exec (.rdU8 0#8) State.reset = .next t ∧ t.fcb.cerr ≠ .ok) ∧
    (∃ t, exec (.cksum 3#8 31#8) State.reset = .next t ∧ t.fcb.cerr ≠ .ok) ∧
    (∃ t, exec (.encode 0x33#8 3#8 0#8) State.reset = .next t ∧ t.fcb.cerr ≠ .ok) ∧
    (∃ t, exec (.encode 0xA5#8 3#8 31#8) State.reset = .next t ∧ t.fcb.cerr ≠ .ok) :=
  ⟨⟨_, rfl, by decide⟩, ⟨_, rfl, by decide⟩, ⟨_, rfl, by decide⟩, ⟨_, rfl, by decide⟩⟩

/-- ResetMeetsInvariants. -/
theorem witness_clients : 1 ≤ Config.default.nClients := by decide

/-- The StepKeeps statements: a bus at reset meets every invariant, and a step from it has a next state. -/
theorem witness_invariants :
    twoClients.everyFcb (fun f => f.memCanonical ∧ f.memInBuffers ∧ f.waitInv) ∧ twoClients.everyFcb Fcb.decodeInv ∧
    twoClients.everyFcb (fun f => f.frameInv .hiFirst ∧ f.txInv .hiFirst) ∧ twoClients.platformInv ∧
    ∃ t, step twoClients = .next t :=
  ⟨by decide, ⟨by decide, by decide⟩, by decide, by decide, _, rfl⟩

/-- The decoder's invariant in each phase of the decoder. -/
theorem witness_decoder_invariant :
    ∀ s ∈ [State.reset, decoding .hdr 3#7 0xDD#8 0#8 0#8, decoding .pay 4#7 0xDD#8 0#8 64#8,
      decoding .tail 70#7 0xDD#8 0#8 64#8, received [0xDD#8, 0x77#8]], s.fcb.decodeInv := by decide

/-- The frame's invariant with FRAME_OK = 1: the good frame of T1. -/
theorem witness_frame_invariant :
    after 0x13000077 (decoding .tail 6#7 0xDD#8 0#8 0#8)
      (fun t => decide (t.fcb.frameOk = true ∧ t.fcb.frameInv .hiFirst ∧ t.fcb.decodeInv)) = some true := by decide

/-- The request frame's invariant with TX_OK = 1: the frame of N1. -/
theorem witness_request_invariant :
    after 0x11A50300 State.reset
      (fun t => decide (t.fcb.txOk = true ∧ t.fcb.txInv .hiFirst ∧ t.fcb.memInBuffers)) = some true := by decide

end Sys2Proof.Tests
end

section
/-! What one command can do to the machine, said once by its outcomes; the induction over a step for a property of
instances; and the statements on the buffers, the waits, errors and the writers of the flags. -/

namespace Sys2Proof.Machine

/-! ### The outcomes of a command -/

/-- The outcomes of a command, each with the whole next state (R125–R132, R170–R221, R253, R255, R286–R288). -/
inductive CommandEffect (s : State) : Instr → State → Prop
  | answered (i : Instr) (v : Word) (hi : answersOnly i = true) : CommandEffect s i (s.answered v)
  | refused (i : Instr) (e : ErrCode) (hi : answersOnly i = true ∨ i = .balStr) : CommandEffect s i (s.raised e)
  | nop : CommandEffect s .nop (s.withFcb s.fcb.complete)
  | srst : CommandEffect s .srst (s.withFcb { Fcb.reset with cmd := 0x01000000#32 })
  | clrerr : CommandEffect s .clrerr (s.withFcb { s.fcb with cmdDropped := false, extraBytes := false, cerr := .ok })
  | cksumRefused (a l : Byte) (hck : requestCk s.cfg a l s.fcb = .error .malformedLength) :
      CommandEffect s (.cksum a l) (s.withFcb { s.fcb with result := 0#32, cerr := .malformedLength })
  | encodeBadArgument (d k l : Byte) (hd : d ≠ 0xA5#8 ∧ d ≠ 0x5A#8) :
      CommandEffect s (.encode d k l) (s.withFcb { s.fcb with txOk := false, txlen := 0#6, cerr := .badArgument })
  | encodeMalformed (d k l : Byte) (hck : requestCk s.cfg k l s.fcb = .error .malformedLength) :
      CommandEffect s (.encode d k l)
        (s.withFcb { s.fcb with txOk := false, txlen := 0#6, result := 0#32, cerr := .malformedLength })
  | encoded (d k l : Byte) (hd : d = 0xA5#8 ∨ d = 0x5A#8) (hl : l.toNat ≤ 30) :
      CommandEffect s (.encode d k l)
        (s.withFcb
          { s.fcb with
            mem := s.fcb.mem.writeBytes txframeBase
              (requestFrame s.cfg.wireCksumOrder d k l (s.fcb.requestPayload l) (ck16 k l (s.fcb.requestPayload l))),
            txlen := l.setWidth 6 + 7#6, txOk := true, result := zext32 (ck16 k l (s.fcb.requestPayload l)),
            cerr := .ok })
  | decStart :
      CommandEffect s .decStart
        (s.withFcb
          { s.fcb with
            dstate := .hdr, dpos := 0#7, dcode := .ok, frameOk := false, hstart := 0#8, hcmd := 0#8, hrc := 0#8,
            hlen := 0#8, ck0 := 0#8, ck1 := 0#8, stopb := 0#8, ckrx := 0#16, ckcalc := 0#16, cerr := .ok })
  | decByte (b : Byte) :
      CommandEffect s (.decByte b) (s.withFcb (s.fcb.takeByte s.cfg.wireCksumOrder b).complete)
  | decEosIgnored (hd : s.fcb.dstate = .idle ∨ s.fcb.dstate = .done) :
      CommandEffect s .decEos (s.withFcb s.fcb.complete)
  | decEosShort (hd : s.fcb.dstate = .hdr ∨ s.fcb.dstate = .pay ∨ s.fcb.dstate = .tail) :
      CommandEffect s .decEos (s.withFcb (s.fcb.finish .transportShort).complete)
  | balStr (hok : s.fcb.frameOk = true) (hl : 22 ≤ s.fcb.hlen.toNat) :
      CommandEffect s .balStr
        (s.withFcb
          { s.fcb with
            mem := s.fcb.mem.writeBytes outstrBase s.fcb.balString, result := BitVec.ofNat 32 s.fcb.balCells,
            cerr := .ok })
  | mosPay (b : Byte) :
      CommandEffect s (.mosPay b)
        (s.withFcb
          { s.fcb with
            mem := s.fcb.mem.writeBytes txpayBase [0x00#8, mosfetWire b], result := zext32 (mosfetWire b),
            cerr := .ok })
  | tgWaiting (h : s.elapsed.toNat < s.fcb.delay.toNat) :
      CommandEffect s .tgWait
        (s.withFcb
          { s.fcb with waitrem := s.fcb.delay - s.elapsed, busy := true, result := s.fcb.delay - s.elapsed })
  | tgWaited (h : s.fcb.delay.toNat ≤ s.elapsed.toNat) :
      CommandEffect s .tgWait (s.withFcb { s.fcb with waitrem := 0#32, result := 0#32, cerr := .ok })
  | tgMark :
      CommandEffect s .tgMark
        { s with
          fcb := { s.fcb with last := if s.fcb.sharedTs then s.fcb.last else s.now, result := s.now, cerr := .ok },
          shcell := if s.fcb.sharedTs then s.now else s.shcell }

/-- A command that goes through the shared answer ends answered or refused. -/
theorem commandEffect_answer {i : Instr} {r : Except ErrCode Word} {s t : State} (hi : answersOnly i = true)
    (h : answer r s = .next t) : CommandEffect s i t := by
  rcases answer_cases h with ⟨v, -, rfl⟩ | ⟨e, -, rfl⟩
  · exact .answered i v hi
  · exact .refused i e (.inl hi)

/-- The outcomes of CKSUM, R125. -/
theorem commandEffect_cksum {a l : Byte} {s t : State} (h : execCksum a l s = .next t) :
    CommandEffect s (.cksum a l) t := by
  unfold execCksum at h
  rcases requestCk_cases s.cfg a l s.fcb with ⟨-, hr⟩ | ⟨-, -, hr⟩ <;> rw [hr] at h <;> cases h
  · exact .cksumRefused a l hr
  · exact .answered _ _ rfl

/-- The outcomes of ENCODE, R126. -/
theorem commandEffect_encode {d k l : Byte} {s t : State} (h : execEncode d k l s = .next t) :
    CommandEffect s (.encode d k l) t := by
  unfold execEncode at h
  split at h <;> rename_i hd
  · cases h
    exact .encodeBadArgument d k l hd
  · simp only [Config.dirRead, Config.dirWrite, ne_eq, not_and_or, not_not] at hd
    rcases requestCk_cases s.cfg k l s.fcb with ⟨-, hr⟩ | ⟨hl, -, hr⟩ <;> rw [hr] at h <;> cases h
    · exact .encodeMalformed d k l hr
    · exact .encoded d k l hd hl

/-- The outcomes of DEC_EOS, R132. -/
theorem commandEffect_decEos {s t : State} (h : execDecEos s = .next t) : CommandEffect s .decEos t := by
  unfold execDecEos at h
  split at h <;> rename_i hd <;> cases h
  · exact .decEosIgnored (.inl hd)
  · exact .decEosIgnored (.inr hd)
  · exact .decEosShort (.inl hd)
  · exact .decEosShort (.inr (.inl hd))
  · exact .decEosShort (.inr (.inr hd))

/-- The outcomes of BAL_STR, R220. -/
theorem commandEffect_balStr {s t : State} (h : execBalStr s = .next t) : CommandEffect s .balStr t := by
  unfold execBalStr at h
  rcases rxBytes_cases 12 10 s.fcb s.fcb.balCells with ⟨-, hr⟩ | ⟨-, -, hr⟩ | ⟨hok, hl, hr⟩ <;> rw [hr] at h <;> cases h
  · exact .refused _ _ (.inr rfl)
  · exact .refused _ _ (.inr rfl)
  · exact .balStr hok hl

/-- The outcomes of TG_WAIT, R253. -/
theorem commandEffect_tgWait {s t : State} (h : execTgWait s = .next t) : CommandEffect s .tgWait t := by
  unfold execTgWait at h
  split at h <;> rename_i hlt <;> cases h
  · exact .tgWaiting hlt
  · exact .tgWaited (Nat.le_of_not_lt hlt)

/-- TG_MARK writes the stamp SHARED_TS selects, and answers NOW (R251, R255). -/
theorem execTgMark_eq (s : State) :
    execTgMark s = .next { s with
      fcb := { s.fcb with last := if s.fcb.sharedTs then s.fcb.last else s.now, result := s.now, cerr := .ok },
      shcell := if s.fcb.sharedTs then s.now else s.shcell } := by
  simp only [execTgMark, State.setStamp]
  by_cases hts : s.fcb.sharedTs = true
  · rw [if_pos hts, if_pos hts, if_pos hts]
    rfl
  · rw [if_neg hts, if_neg hts, if_neg hts]
    rfl

/-- An executed command ends in one of its outcomes. -/
theorem exec_effect {i : Instr} {s t : State} (h : exec i s = .next t) : CommandEffect s i t := by
  cases i
  case nop => cases h; exact .nop
  case srst => cases h; exact .srst
  case clrerr => cases h; exact .clrerr
  case cksum a l => exact commandEffect_cksum h
  case encode d k l => exact commandEffect_encode h
  case decStart => cases h; exact .decStart
  case decByte b => cases h; exact .decByte b
  case decEos => exact commandEffect_decEos h
  case balStr => exact commandEffect_balStr h
  case mosPay b => cases h; exact .mosPay b
  case tgWait => exact commandEffect_tgWait h
  case tgMark =>
    cases (execTgMark_eq s).symm.trans h
    exact .tgMark
  case rdU8 | rdU16be | rdU16le | rdS16be | rdS16le | rdCell | tempDk | tempDc | balBit =>
    exact commandEffect_answer rfl h
  all_goals
    cases h
    exact .answered _ _ rfl

/-- Settles O52: an answering command ends answered, refused, or as the refused CKSUM. -/
theorem answeringCommandsFrame : Obligations.AnsweringCommandsFrame := by
  intro i s t hi h
  cases exec_effect h with
  | answered | refused | cksumRefused => exact ⟨rfl, fun _ => rfl⟩
  | _ => simp [answersOnly] at hi

/-- Settles O50: the outcomes with an error code are the refusals, and only those of CKSUM and ENCODE write more than
CERR. -/
theorem errorsLeaveStateUnchanged : Obligations.ErrorsLeaveStateUnchanged := by
  intro i s t h herr hwait
  cases exec_effect h with
  | refused => exact .inl rfl
  | cksumRefused a l hck => exact .inr (.inl ⟨⟨a, l, rfl⟩, rfl, rfl⟩)
  | encodeBadArgument d k l hd => exact .inr (.inr ⟨⟨d, k, l, rfl⟩, rfl, .inr rfl⟩)
  | encodeMalformed d k l hck => exact .inr (.inr ⟨⟨d, k, l, rfl⟩, rfl, .inl rfl⟩)
  | tgWaiting => exact absurd rfl hwait
  | _ => exact absurd rfl herr

/-! ### The decoder's byte by phase -/

/-- Outside a decode the decoder's byte only sets EXTRA_BYTES (R131). -/
theorem takeByte_ignored {f : Fcb} (o : CksumOrder) (b : Byte) (hd : f.dstate = .idle ∨ f.dstate = .done) :
    f.takeByte o b = { f with extraBytes := true } := by
  rcases hd with hd | hd <;> simp only [Fcb.takeByte, hd]

/-- In the header phase the decoder's byte is a header byte (R131). -/
theorem takeByte_hdr {f : Fcb} (o : CksumOrder) (b : Byte) (hd : f.dstate = .hdr) :
    f.takeByte o b = f.takeHeader b := by
  simp only [Fcb.takeByte, hd]

/-- In the payload phase the decoder's byte is a payload byte (R131). -/
theorem takeByte_pay {f : Fcb} (o : CksumOrder) (b : Byte) (hd : f.dstate = .pay) :
    f.takeByte o b = f.takePayload b := by
  simp only [Fcb.takeByte, hd]

/-- In the trailer phase the decoder's byte is a trailer byte (R131). -/
theorem takeByte_tail {f : Fcb} (o : CksumOrder) (b : Byte) (hd : f.dstate = .tail) :
    f.takeByte o b = f.takeTrailer o b := by
  simp only [Fcb.takeByte, hd]

/-- A header byte changes its byte of RXHDR and the position alone before the header check. -/
theorem putHeader_cases (i : Nat) (b : Byte) (f : Fcb) :
    ∃ st c r l, f.putHeader i b = { f with hstart := st, hcmd := c, hrc := r, hlen := l } := by
  unfold Fcb.putHeader
  split <;> exact ⟨_, _, _, _, rfl⟩

/-- A header byte ends a decode only with an error (R129). -/
theorem takeHeader_flags (b : Byte) (f : Fcb) :
    (f.takeHeader b).frameOk = f.frameOk ∧ (f.takeHeader b).extraBytes = f.extraBytes := by
  obtain ⟨st, c, r, l, hp⟩ := putHeader_cases f.dpos.toNat b f
  simp only [Fcb.takeHeader, hp]
  split
  · rcases hdrCheck_cases { f with hstart := st, hcmd := c, hrc := r, hlen := l }.bumpPos with
      ⟨e, -, h⟩ | ⟨-, -, h⟩ | ⟨-, -, -, h⟩ <;> rw [h] <;> exact ⟨rfl, rfl⟩
  · exact ⟨rfl, rfl⟩

/-- A payload byte is stored, the position moves on, and after the last one the trailer begins (R131). -/
theorem takePayload_eq (b : Byte) (f : Fcb) :
    f.takePayload b =
      { f with
        mem := f.mem.write (rxpayBase + (f.dpos.toNat - 4)) b, dpos := f.dpos + 1#7,
        dstate := if (f.dpos + 1#7).toNat = 4 + f.hlen.toNat then .tail else f.dstate } := by
  by_cases h : (f.dpos + 1#7).toNat = 4 + f.hlen.toNat
  · rw [if_pos h]
    exact if_pos h
  · rw [if_neg h]
    exact if_neg h

/-- The registers of an FCB whose frame is complete: the stop byte stored and both checksums recorded (R130, R131). -/
def Fcb.closeFrame (o : CksumOrder) (b : Byte) (f : Fcb) : Fcb := ({ f with stopb := b }.bumpPos).recordCk o

/-- A trailer byte is stored and the position moves on, or it is the stop byte and the frame is judged (R130, R131). -/
theorem takeTrailer_cases (o : CksumOrder) (b : Byte) (f : Fcb) :
    (f.dpos.toNat ≠ 6 + f.hlen.toNat ∧ ∃ c0 c1, f.takeTrailer o b = { f with ck0 := c0, ck1 := c1 }.bumpPos) ∨
    (f.dpos.toNat = 6 + f.hlen.toNat ∧
      f.takeTrailer o b = (f.closeFrame o b).finish (f.closeFrame o b).trailerOutcome) := by
  unfold Fcb.takeTrailer
  split
  · exact .inl ⟨by omega, _, _, rfl⟩
  split
  · exact .inl ⟨by omega, _, _, rfl⟩
  split
  · exact .inr ⟨‹_›, rfl⟩
  · exact .inl ⟨‹_›, _, _, rfl⟩

/-- FRAME_OK after a byte of the decoder: as before, or the byte was the stop byte of a frame of outcome 0 (R26,
R134). -/
theorem takeByte_frameOk_cases (o : CksumOrder) (b : Byte) (f : Fcb) :
    (f.takeByte o b).frameOk = f.frameOk ∨
    (f.dstate = .tail ∧ f.dpos.toNat = 6 + f.hlen.toNat ∧ (f.closeFrame o b).trailerOutcome = .ok ∧
      f.takeByte o b = (f.closeFrame o b).finish .ok) := by
  cases hd : f.dstate with
  | idle => exact .inl (by rw [takeByte_ignored o b (.inl hd)])
  | done => exact .inl (by rw [takeByte_ignored o b (.inr hd)])
  | hdr => exact .inl (by rw [takeByte_hdr o b hd, (takeHeader_flags b f).1])
  | pay => exact .inl (by rw [takeByte_pay o b hd, takePayload_eq])
  | tail =>
    rw [takeByte_tail o b hd]
    rcases takeTrailer_cases o b f with ⟨-, c0, c1, h⟩ | ⟨hp, h⟩ <;> rw [h]
    · exact .inl rfl
    · by_cases ho : (f.closeFrame o b).trailerOutcome = .ok
      · exact .inr ⟨rfl, hp, ho, by rw [ho]⟩
      · exact .inl (by rw [Fcb.finish_frameOk, if_neg ho]; rfl)

/-- EXTRA_BYTES after a byte of the decoder: set outside a decode, and as before in it (R29, R131). -/
theorem takeByte_extraBytes_cases (o : CksumOrder) (b : Byte) (f : Fcb) :
    (f.takeByte o b).extraBytes = f.extraBytes ∨
    ((f.dstate = .idle ∨ f.dstate = .done) ∧ (f.takeByte o b).extraBytes = true) := by
  cases hd : f.dstate with
  | idle => exact .inr ⟨.inl rfl, by rw [takeByte_ignored o b (.inl hd)]⟩
  | done => exact .inr ⟨.inr rfl, by rw [takeByte_ignored o b (.inr hd)]⟩
  | hdr => exact .inl (by rw [takeByte_hdr o b hd, (takeHeader_flags b f).2])
  | pay => exact .inl (by rw [takeByte_pay o b hd, takePayload_eq])
  | tail =>
    rw [takeByte_tail o b hd]
    rcases takeTrailer_cases o b f with ⟨-, c0, c1, h⟩ | ⟨-, h⟩ <;> rw [h] <;> exact .inl rfl

/-- Settles O48: each outcome of a command writes the flags and control registers as its rule says. -/
theorem registersHaveTheirWriters : Obligations.RegistersHaveTheirWriters := by
  intro i s t h
  cases exec_effect h with
  | srst =>
    exact ⟨.inr (.inr ⟨.inr rfl, rfl⟩), .inr (.inr ⟨rfl, rfl⟩), .inr ⟨.inr rfl, rfl⟩, .inr (.inr ⟨.inr rfl, rfl⟩),
      fun hne => absurd rfl hne⟩
  | clrerr =>
    exact ⟨.inl rfl, .inl rfl, .inr ⟨.inl rfl, rfl⟩, .inr (.inr ⟨.inl rfl, rfl⟩),
      fun _ => ⟨rfl, rfl, rfl, fun _ => rfl⟩⟩
  | encodeBadArgument d k l | encodeMalformed d k l | encoded d k l =>
    exact ⟨.inl rfl, .inr (.inl ⟨⟨d, k, l, rfl⟩, by simp⟩), .inl rfl, .inl rfl, fun _ => ⟨rfl, rfl, rfl, fun _ => rfl⟩⟩
  | decStart =>
    exact ⟨.inr (.inr ⟨.inl rfl, rfl⟩), .inl rfl, .inl rfl, .inl rfl, fun _ => ⟨rfl, rfl, rfl, fun _ => rfl⟩⟩
  | decByte b =>
    have hk := (takeByte_keeps s.cfg.wireCksumOrder b s.fcb).1
    refine ⟨?_, .inl hk.txOk, .inl hk.cmdDropped, ?_, fun _ => ⟨hk.delay, hk.sharedTs, hk.destEn, fun _ => hk.last⟩⟩
    · rcases takeByte_frameOk_cases s.cfg.wireCksumOrder b s.fcb with hf | ⟨-, -, -, hf⟩
      · exact .inl hf
      · exact .inr (.inl ⟨⟨b, rfl⟩, by simp [hf], by simp [hf]⟩)
    · exact (takeByte_extraBytes_cases s.cfg.wireCksumOrder b s.fcb).imp_right fun he => .inl ⟨⟨b, rfl⟩, he⟩
  | tgMark =>
    exact ⟨.inl rfl, .inl rfl, .inl rfl, .inl rfl, fun _ => ⟨rfl, rfl, rfl, fun hne => absurd rfl hne⟩⟩
  | _ => exact ⟨.inl rfl, .inl rfl, .inl rfl, .inl rfl, fun _ => ⟨rfl, rfl, rfl, fun _ => rfl⟩⟩

/-! ### A property of instances over a step -/

/-- The word of SRST decodes to SRST. -/
theorem decode_srst_word : decode 0x01000000#32 = .ok .srst := by decide

/-- The induction over a step for a property that no control register and no byte of TXPAY decides: what is left
to show is that reset gives it and that ticks and executed commands keep it. -/
theorem step_keeps_everyFcb_of_exec (P : Fcb → Prop) {s t : State} (hreset : P Fcb.reset) (htick : ∀ f, P f → P f.tick)
    (hregs : ∀ (f : Fcb) cmd sharedTs destEn delay last cmdDropped cerr, P f →
      P { f with
        cmd := cmd, sharedTs := sharedTs, destEn := destEn, delay := delay, last := last, cmdDropped := cmdDropped,
        cerr := cerr })
    (hrequest : ∀ f off b, regionOf off = .requestBuffer → P f → P { f with mem := f.mem.write off b })
    (hexec : ∀ (i : Instr) (u v : State), u.cfg = s.cfg → (u.fcb.busy = false ∨ i = .srst) → P u.fcb →
      exec i u = .next v → P v.fcb)
    (hs : s.everyFcb P) (h : step s = .next t) : t.everyFcb P := by
  refine step_keeps_everyFcb P hreset htick ?_ hs h
  intro u g hcfg hu he
  cases he with
  | same h => exact h ▸ hu
  | ctrl v h => exact h ▸ hregs u.fcb _ _ _ _ _ _ _ hu
  | delay v h => exact h ▸ hregs u.fcb _ _ _ _ _ _ _ hu
  | last v h => exact h ▸ hregs u.fcb _ _ _ _ _ _ _ hu
  | dropped _ h => exact h ▸ hregs u.fcb _ _ _ _ _ _ _ hu
  | illegal w h => exact h ▸ hregs u.fcb _ _ _ _ _ _ _ hu
  | request off b hr h => exact h ▸ hrequest u.fcb off b hr hu
  | command w i v t hd hb hv hc he h =>
    rw [h]
    refine hexec i v t (hc.trans hcfg) ?_ (hv ▸ hregs u.fcb _ _ _ _ _ _ _ hu) he
    rcases hb with hb | rfl
    · exact .inl (by rw [hv]; exact hb)
    · rw [decode_srst_word] at hd
      cases hd
      exact .inr rfl

/-- A tick changes WAITREM, BUSY and CERR alone (R250, R254). -/
theorem tick_cases (f : Fcb) : ∃ w b e, f.tick = { f with waitrem := w, busy := b, cerr := e } := by
  unfold Fcb.tick
  split
  · simp only [Fcb.waitTick]
    split <;> exact ⟨_, _, _, rfl⟩
  · exact ⟨_, _, _, rfl⟩

/-! ### The buffers' canonical form and the waits -/

/-- An executed command keeps the canonical form of its FCB's buffers (log 10). -/
theorem exec_keeps_memCanonical {i : Instr} {s t : State} (hm : s.fcb.memCanonical) (h : exec i s = .next t) :
    t.fcb.memCanonical := by
  unfold Fcb.memCanonical at hm ⊢
  rcases exec_mem_cases h with h | ⟨-, h⟩ | ⟨b, -, h⟩ | ⟨d, k, l, -, -, -, h⟩ | ⟨b, -, -, h⟩ | ⟨-, h⟩ <;> rw [h]
  · exact hm
  · rfl
  · exact Memory.wf_writeBytes hm _ _
  · exact Memory.wf_writeBytes hm _ _
  · exact Memory.wf_write hm _ _
  · exact Memory.wf_writeBytes hm _ _

/-- Settles O54: every write into the buffers keeps their canonical form. -/
theorem stepKeepsMemoryCanonical : Obligations.StepKeepsMemoryCanonical := by
  intro s t hs h
  refine step_keeps_everyFcb_of_exec Fcb.memCanonical Fcb.reset_mem_wf ?_ (fun _ _ _ _ _ _ _ _ hm => hm)
    (fun f off b _ hm => Memory.wf_write hm off b) (fun _ _ _ _ _ hm he => exec_keeps_memCanonical hm he) hs h
  intro f hm
  obtain ⟨w, b, e, hf⟩ := tick_cases f
  rw [hf]
  exact hm

/-- A tick that counts a wait down ends it exactly when nothing remains (R254). -/
theorem tick_keeps_waitInv (f : Fcb) (h : f.waitInv) : f.tick.waitInv := by
  unfold Fcb.tick
  split
  · rename_i hb
    simp only [Fcb.waitTick]
    split
    · rename_i hr
      simp [Fcb.waitInv, hr]
    · rename_i hr
      simp [Fcb.waitInv, hr, hb]
  · exact h

/-- A command accepted with no wait in progress starts one with a tick to go, or leaves none (R253). -/
theorem exec_keeps_waitInv {i : Instr} {s t : State} (hb : s.fcb.busy = false ∨ i = .srst) (hw : s.fcb.waitInv)
    (h : exec i s = .next t) : t.fcb.waitInv := by
  cases exec_effect h with
  | srst => simp [Fcb.waitInv, Fcb.reset]
  | decByte b =>
    have hk := (takeByte_keeps s.cfg.wireCksumOrder b s.fcb).1
    simpa [Fcb.waitInv, hk.busy, hk.waitrem] using hw
  | tgWaiting hlt =>
    have hne : s.fcb.delay - s.elapsed ≠ 0#32 := by bv_omega
    simp [Fcb.waitInv, hne]
  | tgWaited => simpa [Fcb.waitInv] using hb
  | _ => exact hw

/-- Settles O55: a wait begins with WAITREM above 0, and a tick ends it where WAITREM reaches 0. -/
theorem stepKeepsWaitConsistent : Obligations.StepKeepsWaitConsistent := by
  intro s t hs h
  exact step_keeps_everyFcb_of_exec Fcb.waitInv (by decide) tick_keeps_waitInv (fun _ _ _ _ _ _ _ _ hw => hw)
    (fun _ _ _ _ hw => hw) (fun _ _ _ _ hb hw he => exec_keeps_waitInv hb hw he) hs h

end Sys2Proof.Machine
end

section
/-! The promises of the decoder's and the encoder's registers, kept by every step: the decoder's phases, the received
frame behind FRAME_OK, and the request frame behind TX_OK. -/

namespace Sys2Proof.Machine

/-! ### The decoder's phases -/

/-- What the decoder's invariant says in the phase the decoder is in (R45, R46). -/
def Fcb.phaseInv (f : Fcb) : Prop :=
  match f.dstate with
  | .idle => f.dpos = 0#7 ∧ f.dcode = .ok ∧ f.frameOk = false
  | .hdr => f.dpos.toNat < 4 ∧ f.dcode = .ok ∧ f.frameOk = false
  | .pay =>
    f.hstart = 0xDD#8 ∧ f.hlen.toNat ≤ 64 ∧ 4 ≤ f.dpos.toNat ∧ f.dpos.toNat < 4 + f.hlen.toNat ∧ f.dcode = .ok ∧
      f.frameOk = false
  | .tail =>
    f.hstart = 0xDD#8 ∧ f.hlen.toNat ≤ 64 ∧ 4 + f.hlen.toNat ≤ f.dpos.toNat ∧ f.dpos.toNat < 7 + f.hlen.toNat ∧
      f.dcode = .ok ∧ f.frameOk = false
  | .done =>
    f.dpos.toNat ≤ 71 ∧ (f.frameOk = true ↔ f.dcode = .ok) ∧
      (f.dcode.code = 0#4 ∨ 2 ≤ f.dcode.code.toNat ∧ f.dcode.code.toNat ≤ 8)

/-- The decoder's invariant, phase by phase. -/
theorem decodeInv_iff_phaseInv (f : Fcb) : f.decodeInv ↔ f.phaseInv := by
  unfold Fcb.phaseInv
  constructor
  · rintro ⟨hidle, hhdr, hpay, htail, hdone, hopen, hok, hstart, hcode⟩
    cases hd : f.dstate with
    | idle => exact ⟨hidle hd, hopen (by simp [hd])⟩
    | hdr => exact ⟨hhdr hd, hopen (by simp [hd])⟩
    | pay =>
      obtain ⟨hl, hlo, hhi⟩ := hpay hd
      exact ⟨hstart (.inl hd), hl, hlo, hhi, hopen (by simp [hd])⟩
    | tail =>
      obtain ⟨hl, hlo, hhi⟩ := htail hd
      exact ⟨hstart (.inr hd), hl, hlo, hhi, hopen (by simp [hd])⟩
    | done => exact ⟨hdone hd, hok hd, hcode⟩
  · intro h
    have hok : ErrCode.ok.code = 0#4 := rfl
    cases hd : f.dstate <;> simp only [hd] at h <;> simp [Fcb.decodeInv, hd, h, hok]

/-- A decode ended with an outcome code of R282 is consistent. -/
theorem finish_phaseInv {f : Fcb} {e : ErrCode} (hp : f.dpos.toNat ≤ 71) (hf : f.frameOk = false)
    (he : e.code = 0#4 ∨ 2 ≤ e.code.toNat ∧ e.code.toNat ≤ 8) : (f.finish e).phaseInv := by
  simp [Fcb.phaseInv, hp, hf, he]

/-- The header check after the fourth byte leaves a consistent decoder (R129). -/
theorem hdrCheck_phaseInv {f : Fcb} (hp : f.dpos = 4#7) (hc : f.dcode = .ok) (hf : f.frameOk = false) :
    f.hdrCheck.phaseInv := by
  rcases hdrCheck_cases f with ⟨e, he, h⟩ | ⟨hs, hl, h⟩ | ⟨hs, hl, hl', h⟩ <;> rw [h]
  · rcases he with rfl | rfl | rfl <;> simp [Fcb.phaseInv, hp, hf, ErrCode.code]
  · simp [Fcb.phaseInv, hs, hl, hp, hc, hf]
  · simp [Fcb.phaseInv, hs, hl, hl', hp, hc, hf]

/-- A header byte leaves a consistent decoder (R131). -/
theorem takeHeader_phaseInv {f : Fcb} (b : Byte) (hd : f.dstate = .hdr) (hp : f.dpos.toNat < 4) (hc : f.dcode = .ok)
    (hf : f.frameOk = false) : (f.takeHeader b).phaseInv := by
  obtain ⟨st, c, r, l, hput⟩ := putHeader_cases f.dpos.toNat b f
  simp only [Fcb.takeHeader, hput]
  split
  · rename_i h4
    exact hdrCheck_phaseInv h4 hc hf
  · rename_i h4
    have hnext : (f.dpos + 1#7).toNat < 4 := by
      simp only [Fcb.bumpPos_dpos] at h4
      bv_omega
    simpa [Fcb.phaseInv, hd, hc, hf] using hnext

/-- A payload byte leaves a consistent decoder (R131). -/
theorem takePayload_phaseInv {f : Fcb} (b : Byte) (hd : f.dstate = .pay) (h : f.phaseInv) :
    (f.takePayload b).phaseInv := by
  simp only [Fcb.phaseInv, hd] at h
  obtain ⟨hs, hl, hlo, hhi, hc, hf⟩ := h
  have hp : (f.dpos + 1#7).toNat = f.dpos.toNat + 1 := by bv_omega
  rw [takePayload_eq]
  by_cases hlast : (f.dpos + 1#7).toNat = 4 + f.hlen.toNat
  · simp only [Fcb.phaseInv, if_pos hlast]
    exact ⟨hs, hl, by omega, by omega, hc, hf⟩
  · simp only [Fcb.phaseInv, if_neg hlast, hd]
    exact ⟨hs, hl, by omega, by omega, hc, hf⟩

/-- The outcomes of a complete frame are codes of R282. -/
theorem trailerOutcome_code (f : Fcb) :
    f.trailerOutcome.code = 0#4 ∨ 2 ≤ f.trailerOutcome.code.toNat ∧ f.trailerOutcome.code.toNat ≤ 8 := by
  unfold Fcb.trailerOutcome
  split_ifs <;> decide

/-- A trailer byte leaves a consistent decoder (R131). -/
theorem takeTrailer_phaseInv {f : Fcb} (o : CksumOrder) (b : Byte) (hd : f.dstate = .tail) (h : f.phaseInv) :
    (f.takeTrailer o b).phaseInv := by
  simp only [Fcb.phaseInv, hd] at h
  obtain ⟨hs, hl, hlo, hhi, hc, hf⟩ := h
  have hp : (f.dpos + 1#7).toNat = f.dpos.toNat + 1 := by bv_omega
  rcases takeTrailer_cases o b f with ⟨hne, c0, c1, h⟩ | ⟨-, h⟩ <;> rw [h]
  · simp only [Fcb.phaseInv, Fcb.bumpPos_dstate, Fcb.bumpPos_dpos, Fcb.bumpPos_hlen, hd]
    exact ⟨hs, hl, by omega, by omega, hc, hf⟩
  · refine finish_phaseInv ?_ hf (trailerOutcome_code _)
    change (f.dpos + 1#7).toNat ≤ 71
    omega

/-- The decoder's byte leaves a consistent decoder (R131). -/
theorem takeByte_phaseInv {f : Fcb} (o : CksumOrder) (b : Byte) (h : f.phaseInv) : (f.takeByte o b).phaseInv := by
  cases hd : f.dstate with
  | idle => rw [takeByte_ignored o b (.inl hd)]; exact h
  | done => rw [takeByte_ignored o b (.inr hd)]; exact h
  | hdr =>
    rw [takeByte_hdr o b hd]
    simp only [Fcb.phaseInv, hd] at h
    exact takeHeader_phaseInv b hd h.1 h.2.1 h.2.2
  | pay => rw [takeByte_pay o b hd]; exact takePayload_phaseInv b hd h
  | tail => rw [takeByte_tail o b hd]; exact takeTrailer_phaseInv o b hd h

/-- A consistent decoder with a decode in progress is at a position of at most 71, with FRAME_OK = 0. -/
theorem phaseInv_inProgress {f : Fcb} (h : f.phaseInv) (hd : f.dstate = .hdr ∨ f.dstate = .pay ∨ f.dstate = .tail) :
    f.dpos.toNat ≤ 71 ∧ f.frameOk = false := by
  rcases hd with hd | hd | hd <;> simp only [Fcb.phaseInv, hd] at h
  · exact ⟨by omega, h.2.2⟩
  · obtain ⟨-, hl, -, hhi, -, hf⟩ := h
    exact ⟨by omega, hf⟩
  · obtain ⟨-, hl, -, hhi, -, hf⟩ := h
    exact ⟨by omega, hf⟩

/-- An executed command leaves a consistent decoder consistent. -/
theorem exec_keeps_decodeInv {i : Instr} {s t : State} (hs : s.fcb.decodeInv) (h : exec i s = .next t) :
    t.fcb.decodeInv := by
  rw [decodeInv_iff_phaseInv] at hs ⊢
  cases exec_effect h with
  | srst => exact ⟨rfl, rfl, rfl⟩
  | decStart => exact ⟨Nat.zero_lt_succ _, rfl, rfl⟩
  | decByte b => exact takeByte_phaseInv s.cfg.wireCksumOrder b hs
  | decEosShort hd =>
    obtain ⟨hp, hf⟩ := phaseInv_inProgress hs hd
    exact finish_phaseInv (f := s.fcb) (e := .transportShort) hp hf (by decide)
  | _ => exact hs

/-- A tick does not touch the decoder. -/
theorem tick_keeps_decodeInv (f : Fcb) (h : f.decodeInv) : f.tick.decodeInv := by
  obtain ⟨w, b, e, hf⟩ := tick_cases f
  rw [hf]
  exact h

/-- Settles O56: only DEC_START, DEC_BYTE, DEC_EOS and a reset move the decoder, each into a consistent phase. -/
theorem stepKeepsDecoderConsistent : Obligations.StepKeepsDecoderConsistent := by
  intro s t hs h
  exact step_keeps_everyFcb_of_exec Fcb.decodeInv (by decide) tick_keeps_decodeInv (fun _ _ _ _ _ _ _ _ hd => hd)
    (fun _ _ _ _ hd => hd) (fun _ _ _ _ _ hd he => exec_keeps_decodeInv hd he) hs h

/-! ### The checksum as a number -/

/-- Subtracting bytes from a checksum, as numbers modulo 2^16 (R120). -/
theorem foldl_sub_add_byteSum (p : List Byte) (a : Half) :
    ((p.foldl (fun acc b => acc - b.setWidth 16) a).toNat + byteSum p) % 65536 = a.toNat := by
  induction p generalizing a with
  | nil => simpa [byteSum] using Nat.mod_eq_of_lt a.isLt
  | cons b p ih =>
    have hstep := ih (a - b.setWidth 16)
    have hsum : byteSum (b :: p) = b.toNat + byteSum p := rfl
    have hb : (b.setWidth 16).toNat = b.toNat := by simp; omega
    rw [List.foldl_cons, hsum]
    rw [BitVec.toNat_sub, hb] at hstep
    have := a.isLt
    omega

/-- The checksum is the closed formula of R120. -/
theorem toNat_ck16 (t l : Byte) (p : List Byte) : (ck16 t l p).toNat = ckNat t.toNat l.toNat (byteSum p) := by
  have hfold := foldl_sub_add_byteSum p (0#16 - t.setWidth 16 - l.setWidth 16)
  have hlt := (ck16 t l p).isLt
  have hstart : (0#16 - t.setWidth 16 - l.setWidth 16).toNat = (131072 - t.toNat - l.toNat) % 65536 := by bv_omega
  rw [hstart] at hfold
  unfold ck16 ckNat at *
  omega

/-- The checksum bytes assembled, as a number (R121). -/
theorem toNat_assembleCk (o : CksumOrder) (c0 c1 : Byte) : (assembleCk o c0 c1).toNat = wireNat o c0 c1 := by
  cases o
  · exact toNat_be16 c0 c1
  · exact toNat_le16 c0 c1

/-! ### The received frame -/

/-- The received payload's sum is the sum of the bytes of RXPAY (R120, R130). -/
theorem byteSum_responsePayload (f : Fcb) : byteSum f.responsePayload = f.rxSum f.hlen.toNat := by
  rw [Fcb.responsePayload, Memory.readBytes_eq_map]
  rfl

/-- A complete frame of outcome 0 has equal checksums, the stop byte and returncode 0 (R130). -/
theorem trailerOutcome_eq_ok {f : Fcb} (h : f.trailerOutcome = .ok) :
    f.ckrx = f.ckcalc ∧ f.stopb = 0x77#8 ∧ f.hrc = 0x00#8 := by
  unfold Fcb.trailerOutcome at h
  split_ifs at h with hck hstop hrc
  exact ⟨not_not.mp hck, not_not.mp hstop, not_not.mp hrc⟩

/-- The stop byte of a frame of outcome 0 leaves the registers of a good frame (R26, R123, R130). -/
theorem closeFrame_frameInv {f : Fcb} {o : CksumOrder} {b : Byte} (hd : f.dstate = .tail) (h : f.phaseInv)
    (hp : f.dpos.toNat = 6 + f.hlen.toNat) (hok : (f.closeFrame o b).trailerOutcome = .ok) :
    ((f.closeFrame o b).finish .ok).frameInv o := by
  intro _
  obtain ⟨hck, hstop, hrc⟩ := trailerOutcome_eq_ok hok
  simp only [Fcb.phaseInv, hd] at h
  obtain ⟨hs, hl, -⟩ := h
  have hpos : (f.dpos + 1#7).toNat = f.hlen.toNat + 7 := by bv_omega
  have hrx : (f.closeFrame o b).ckrx.toNat = wireNat o f.ck0 f.ck1 := toNat_assembleCk o f.ck0 f.ck1
  have hcalc : (f.closeFrame o b).ckcalc.toNat = ckNat f.hrc.toNat f.hlen.toNat (f.rxSum f.hlen.toNat) := by
    rw [← byteSum_responsePayload]
    exact toNat_ck16 f.hrc f.hlen f.responsePayload
  refine ⟨hs, hrc, hl, hstop, hpos, hck, hrx, ?_⟩
  change (f.hrc.toNat + f.hlen.toNat + f.rxSum f.hlen.toNat + wireNat o f.ck0 f.ck1) % 65536 = 0
  rw [← hrx, hck, hcalc, ckNat]
  omega

/-- Which buffer byte an executed command can change: none, any by SRST, and one of TXPAY by MOS_PAY, of TXFRAME by
ENCODE, of RXPAY by DEC_BYTE in the payload phase, and of OUTSTR by BAL_STR (R37–R40, R61). -/
theorem exec_read_cases {i : Instr} {s t : State} (h : exec i s = .next t) (a : Nat) :
    t.fcb.mem.read a = s.fcb.mem.read a ∨ i = .srst ∨ ((∃ b, i = .mosPay b) ∧ a < 0x080) ∨
    ((∃ d k l, i = .encode d k l) ∧ 0x080 ≤ a ∧ a < 0x0A5) ∨ ((∃ b, i = .decByte b) ∧ s.fcb.dstate = .pay ∧ 0x0C0 ≤ a) ∨
    (i = .balStr ∧ 0x100 ≤ a) := by
  rcases exec_mem_cases h with h | ⟨hi, -⟩ | ⟨b, hi, h⟩ | ⟨d, k, l, hi, -, hl, h⟩ | ⟨b, hi, hd, h⟩ | ⟨hi, h⟩
  · exact .inl (by rw [h])
  · exact .inr (.inl hi)
  · by_cases ha : a < 0x080
    · exact .inr (.inr (.inl ⟨⟨b, hi⟩, ha⟩))
    · refine .inl ?_
      rw [h, Memory.read_writeBytes_other _ _ _ (.inr _)]
      simp only [txpayBase, List.length_cons, List.length_nil]
      omega
  · by_cases ha : 0x080 ≤ a ∧ a < 0x0A5
    · exact .inr (.inr (.inr (.inl ⟨⟨d, k, l, hi⟩, ha⟩)))
    · refine .inl ?_
      rw [h, Memory.read_writeBytes_other]
      simp only [txframeBase, requestFrame, Fcb.requestPayload, List.length_append, List.length_cons, List.length_nil,
        Memory.length_readBytes]
      omega
  · by_cases ha : 0x0C0 ≤ a
    · exact .inr (.inr (.inr (.inr (.inl ⟨⟨b, hi⟩, hd, ha⟩))))
    · refine .inl ?_
      rw [h, Memory.read_write_other]
      simp only [rxpayBase]
      omega
  · by_cases ha : 0x100 ≤ a
    · exact .inr (.inr (.inr (.inr (.inr ⟨hi, ha⟩))))
    · refine .inl ?_
      rw [h, Memory.read_writeBytes_other _ _ _ (.inl _)]
      simp only [outstrBase]
      omega

/-- The request buffer's offsets, R61. -/
theorem regionOf_eq_requestBuffer {off : Nat} (h : regionOf off = .requestBuffer) : 0x040 ≤ off ∧ off ≤ 0x05D := by
  unfold regionOf at h
  split_ifs at h with h1 h2
  exact h2

/-- No command but SRST and DEC_BYTE changes RXPAY (R39). -/
theorem exec_keeps_rxpay {i : Instr} {s t : State} (h : exec i s = .next t) (hs : i ≠ .srst) (hb : ∀ b, i ≠ .decByte b)
    {a : Nat} (hlo : 0x0C0 ≤ a) (hhi : a < 0x100) : t.fcb.mem.read a = s.fcb.mem.read a := by
  rcases exec_read_cases h a with hr | hi | ⟨-, ha⟩ | ⟨-, -, ha⟩ | ⟨⟨b, hi⟩, -⟩ | ⟨-, ha⟩
  · exact hr
  · exact absurd hi hs
  · omega
  · omega
  · exact absurd hi (hb b)
  · omega

/-- No command but SRST and ENCODE changes TXFRAME (R38). -/
theorem exec_keeps_txframe {i : Instr} {s t : State} (h : exec i s = .next t) (hs : i ≠ .srst)
    (he : ∀ d k l, i ≠ .encode d k l) {a : Nat} (hlo : 0x080 ≤ a) (hhi : a < 0x0A5) :
    t.fcb.mem.read a = s.fcb.mem.read a := by
  rcases exec_read_cases h a with hr | hi | ⟨-, ha⟩ | ⟨⟨d, k, l, hi⟩, -⟩ | ⟨-, -, ha⟩ | ⟨-, ha⟩
  · exact hr
  · exact absurd hi hs
  · omega
  · exact absurd hi (he d k l)
  · omega
  · omega

/-- The received payload's sum depends on its bytes of RXPAY alone. -/
theorem rxSum_congr {f g : Fcb} {n : Nat} (h : ∀ k < n, g.rxpay k = f.rxpay k) : g.rxSum n = f.rxSum n :=
  congrArg byteSum (List.map_congr_left fun k hk => h k (List.mem_range.mp hk))

/-- A change outside the decoder's registers and RXPAY leaves FRAME_OK's promise as it was. -/
theorem frameInv_withMem {f : Fcb} {o : CksumOrder} (h : f.frameInv o) (m : Memory) (txOk : Bool) (txlen : BitVec 6)
    (result : Word) (cerr : ErrCode) (hm : ∀ a, 0x0C0 ≤ a → a < 0x100 → m.read a = f.mem.read a) :
    Fcb.frameInv o { f with mem := m, txOk := txOk, txlen := txlen, result := result, cerr := cerr } := by
  intro hok
  obtain ⟨hs, hrc, hl, hstop, hp, hck, hrx, hsum⟩ := h hok
  rw [← rxSum_congr (g := { f with mem := m, txOk := txOk, txlen := txlen, result := result, cerr := cerr })
    fun k hk => hm _ (by simp only [rxpayBase]; omega) (by simp only [rxpayBase]; omega)] at hsum
  exact ⟨hs, hrc, hl, hstop, hp, hck, hrx, hsum⟩

/-- A finished frame of outcome 0 is held in DONE (R26). -/
theorem dstate_of_frameOk {f : Fcb} (h : f.decodeInv) (hok : f.frameOk = true) : f.dstate = .done := by
  rw [decodeInv_iff_phaseInv] at h
  unfold Fcb.phaseInv at h
  cases hd : f.dstate <;> simp_all

/-- The decoder's byte keeps FRAME_OK's promise: it ends a good frame, or FRAME_OK was 1 and the byte is ignored
(R131). -/
theorem takeByte_frameInv {f : Fcb} {o : CksumOrder} (b : Byte) (hd : f.decodeInv) (h : f.frameInv o) :
    (f.takeByte o b).frameInv o := by
  rcases takeByte_frameOk_cases o b f with hf | ⟨ht, hp, hok, heq⟩
  · intro hok
    have hok' : f.frameOk = true := hf ▸ hok
    rw [takeByte_ignored o b (.inr (dstate_of_frameOk hd hok'))]
    exact h hok'
  · rw [heq]
    exact closeFrame_frameInv ht ((decodeInv_iff_phaseInv f).mp hd) hp hok

/-- An executed command keeps FRAME_OK's promise, given the decoder's invariant. -/
theorem exec_keeps_frameInv {i : Instr} {s t : State} (hd : s.fcb.decodeInv)
    (hf : s.fcb.frameInv s.cfg.wireCksumOrder) (h : exec i s = .next t) : t.fcb.frameInv s.cfg.wireCksumOrder := by
  cases exec_effect h with
  | srst | decStart => exact fun hok => absurd hok Bool.false_ne_true
  | decByte b => exact takeByte_frameInv b hd hf
  | decEosShort hp =>
    intro hok
    have := (phaseInv_inProgress ((decodeInv_iff_phaseInv s.fcb).mp hd) hp).2
    exact absurd (this.symm.trans hok) Bool.false_ne_true
  | encoded | balStr | mosPay =>
    exact frameInv_withMem hf _ _ _ _ _ fun a hlo hhi => exec_keeps_rxpay h nofun nofun hlo hhi
  | _ => exact hf

/-- Settles O57: FRAME_OK becomes 1 only with the stop byte of a good frame, and while it is 1 no step but a reset, SRST
or DEC_START touches the decoder's registers or RXPAY. -/
theorem stepKeepsReceivedFrame : Obligations.StepKeepsReceivedFrame := by
  intro s t hs h
  have hkept : t.everyFcb (fun f => f.decodeInv ∧ f.frameInv s.cfg.wireCksumOrder) := by
    refine step_keeps_everyFcb_of_exec _ ⟨by decide, fun hok => absurd hok Bool.false_ne_true⟩ ?_
      (fun _ _ _ _ _ _ _ _ hp => hp) ?_ ?_ hs h
    · rintro f ⟨hd, hf⟩
      refine ⟨tick_keeps_decodeInv f hd, ?_⟩
      obtain ⟨w, b, e, heq⟩ := tick_cases f
      rw [heq]
      exact hf
    · rintro f off b hr ⟨hd, hf⟩
      have hoff := regionOf_eq_requestBuffer hr
      exact ⟨hd, frameInv_withMem hf _ _ _ _ _ (fun a hlo _ => Memory.read_write_other _ _ (by omega))⟩
    · rintro i u v hcfg - ⟨hd, hf⟩ he
      rw [← hcfg] at hf ⊢
      exact ⟨exec_keeps_decodeInv hd he, exec_keeps_frameInv hd hf he⟩
  rw [step_keeps_cfg h]
  exact ⟨hkept.1.2, fun f hf => (hkept.2 f hf).2⟩

/-! ### The request frame -/

/-- The checksum bytes on the wire are those of the checksum's number (R121). -/
theorem wireCk_eq_wireBytes (o : CksumOrder) (v : Half) : [(wireCk o v).1, (wireCk o v).2] = wireBytes o v.toNat := by
  have hhi : v.extractLsb' 8 8 = BitVec.ofNat 8 (v.toNat / 256) := by
    apply BitVec.eq_of_toNat_eq
    rw [BitVec.extractLsb'_toNat, Nat.shiftRight_eq_div_pow, BitVec.toNat_ofNat]
  have hlo : v.extractLsb' 0 8 = BitVec.ofNat 8 v.toNat := by
    apply BitVec.eq_of_toNat_eq
    rw [BitVec.extractLsb'_toNat, Nat.shiftRight_zero, BitVec.toNat_ofNat]
  cases o <;> simp only [wireCk, wireBytes, hhi, hlo]

/-- The bytes ENCODE writes are the request frame of R122. -/
theorem requestFrame_eq_frameBytes (o : CksumOrder) (d k l : Byte) (p : List Byte) :
    requestFrame o d k l p (ck16 k l p) = frameBytes o d k k l p := by
  rw [frameBytes, ← toNat_ck16, ← wireCk_eq_wireBytes]
  simp [requestFrame, Config.startByte, Config.stopByte]

/-- In a canonical memory a part of a run just written reads back. -/
theorem Memory.readBytes_writeBytes_part {m : Memory} (h : m.wf = true) (a : Nat) (pre p post : List Byte) :
    (m.writeBytes a (pre ++ p ++ post)).readBytes (a + pre.length) p.length = p := by
  apply List.ext_getElem
  · simp
  · intro k hk hk'
    rw [Memory.getElem_readBytes, Nat.add_assoc, Memory.read_writeBytes h a _ (by simp; omega)]
    simp [List.getElem_append_left, List.getElem_append_right, hk']

/-- TX_OK's promise speaks of TX_OK, TXLEN and TXFRAME alone. -/
theorem txInv_congr {f g : Fcb} {o : CksumOrder} (h : f.txInv o) (hok : g.txOk = f.txOk) (hlen : g.txlen = f.txlen)
    (hm : ∀ a, 0x080 ≤ a → a < 0x0A5 → g.mem.read a = f.mem.read a) : g.txInv o := by
  obtain ⟨hno, hyes⟩ := h
  refine ⟨fun ht => hlen.trans (hno (hok.symm.trans ht)), fun ht => ?_⟩
  obtain ⟨hlo, hhi, hdir, hframe⟩ := hyes (hok.symm.trans ht)
  have h1 : g.txframe 1 = f.txframe 1 := hm _ (by decide) (by decide)
  have h2 : g.txframe 2 = f.txframe 2 := hm _ (by decide) (by decide)
  have hall : g.mem.readBytes txframeBase f.txlen.toNat = f.mem.readBytes txframeBase f.txlen.toNat :=
    Memory.readBytes_congr fun k hk => hm _ (by simp only [txframeBase]; omega) (by simp only [txframeBase]; omega)
  have hpay : g.mem.readBytes (txframeBase + 4) (f.txlen.toNat - 7) =
      f.mem.readBytes (txframeBase + 4) (f.txlen.toNat - 7) :=
    Memory.readBytes_congr fun k hk => hm _ (by simp only [txframeBase]; omega) (by simp only [txframeBase]; omega)
  rw [hlen, h1, h2, hall, hpay]
  exact ⟨hlo, hhi, hdir, hframe⟩

/-- ENCODE's success leaves the request frame of its operands in TXFRAME (R122, R126). -/
theorem encoded_txInv {f g : Fcb} {o : CksumOrder} {d k l : Byte} {p : List Byte} (hm : f.memCanonical)
    (hd : d = 0xA5#8 ∨ d = 0x5A#8) (hl : l.toNat ≤ 30) (hp : p.length = l.toNat) (hok : g.txOk = true)
    (hlen : g.txlen = l.setWidth 6 + 7#6)
    (hg : g.mem = f.mem.writeBytes txframeBase (requestFrame o d k l p (ck16 k l p))) : g.txInv o := by
  have hn : g.txlen.toNat = l.toNat + 7 := by rw [hlen]; bv_omega
  have hread : ∀ j (hj : j < (requestFrame o d k l p (ck16 k l p)).length),
      g.txframe j = (requestFrame o d k l p (ck16 k l p))[j] := by
    intro j hj
    rw [Fcb.txframe, hg, Memory.read_writeBytes hm]
  have hsize : (requestFrame o d k l p (ck16 k l p)).length = l.toNat + 7 := by
    simp [requestFrame, hp]
  have h1 : g.txframe 1 = d := hread 1 (by omega)
  have h2 : g.txframe 2 = k := hread 2 (by omega)
  have hall : g.mem.readBytes txframeBase (l.toNat + 7) = requestFrame o d k l p (ck16 k l p) := by
    rw [hg, ← hsize]
    exact Memory.readBytes_writeBytes hm _ _
  have hpay : g.mem.readBytes (txframeBase + 4) l.toNat = p := by
    rw [hg, ← hp]
    exact Memory.readBytes_writeBytes_part hm txframeBase [Config.startByte, d, k, l] p _
  refine ⟨fun ht => absurd (hok.symm.trans ht) Bool.noConfusion, fun _ => ?_⟩
  rw [hn, h1, h2, Nat.add_sub_cancel, hall, hpay, BitVec.ofNat_toNat, BitVec.setWidth_eq]
  exact ⟨by omega, by omega, hd, requestFrame_eq_frameBytes o d k l p⟩

/-- An executed command keeps TX_OK's promise, given canonical buffers. -/
theorem exec_keeps_txInv {i : Instr} {s t : State} (hm : s.fcb.memCanonical) (ht : s.fcb.txInv s.cfg.wireCksumOrder)
    (h : exec i s = .next t) : t.fcb.txInv s.cfg.wireCksumOrder := by
  cases exec_effect h with
  | srst | encodeBadArgument | encodeMalformed => exact ⟨fun _ => rfl, fun hok => absurd hok Bool.false_ne_true⟩
  | encoded d k l hd hl => exact encoded_txInv hm hd hl (Memory.length_readBytes _ _ _) rfl rfl rfl
  | decByte b =>
    have hk := (takeByte_keeps s.cfg.wireCksumOrder b s.fcb).1
    exact txInv_congr ht hk.txOk hk.txlen fun a hlo hhi => exec_keeps_txframe h nofun nofun hlo hhi
  | balStr | mosPay =>
    exact txInv_congr ht rfl rfl fun a hlo hhi => exec_keeps_txframe h nofun nofun hlo hhi
  | _ => exact ht

/-- Settles O58: ENCODE alone writes TXFRAME, TXLEN and TX_OK, and its success leaves a request frame there. -/
theorem stepKeepsTransmitFrame : Obligations.StepKeepsTransmitFrame := by
  intro s t hs h
  have hkept : t.everyFcb (fun f => f.memCanonical ∧ f.txInv s.cfg.wireCksumOrder) := by
    refine step_keeps_everyFcb_of_exec _ ⟨rfl, fun _ => rfl, fun hok => absurd hok Bool.false_ne_true⟩ ?_
      (fun _ _ _ _ _ _ _ _ hp => hp) ?_ ?_ ⟨⟨hs.1.1, hs.1.2.2⟩, fun f hf => ⟨(hs.2 f hf).1, (hs.2 f hf).2.2⟩⟩ h
    · intro f hp
      obtain ⟨w, b, e, heq⟩ := tick_cases f
      rw [heq]
      exact hp
    · rintro f off b hr ⟨hm, ht⟩
      have hoff := regionOf_eq_requestBuffer hr
      exact ⟨Memory.wf_write hm off b,
        txInv_congr ht rfl rfl fun a hlo _ => Memory.read_write_other _ _ (by omega)⟩
    · rintro i u v hcfg - ⟨hm, ht⟩ he
      rw [← hcfg] at ht ⊢
      exact ⟨exec_keeps_memCanonical hm he, exec_keeps_txInv hm ht he⟩
  rw [step_keeps_cfg h]
  exact ⟨hkept.1.2, fun f hf => (hkept.2 f hf).2⟩

end Sys2Proof.Machine
end

section
/-! A word that decodes is a row of the opcode map (R97, R98). -/

namespace Sys2Proof

/-- How many low bits of a word of a format are operands (R91–R96). -/
def Format.operandBits : Format → Nat
  | .n _ => 0
  | .b _ => 8
  | .h _ => 16
  | .c _ => 16
  | .f _ => 24

/-- Every opcode of the decoder's map is a row of the opcode map, with the operand bits of its format free (R98). -/
theorem opcodeMap_row {op : Byte} {fmt : Format} (h : opcodeMap op = some fmt) :
    ⟨op ++ (0#24), BitVec.allOnes 32 <<< fmt.operandBits⟩ ∈ opcodeRows := by
  have hop : op = BitVec.ofNat 8 op.toNat := by simp
  unfold opcodeMap at h
  split at h
  case h_38 => cases h
  all_goals
    rename_i hn
    cases h
    rw [hn] at hop
    subst hop
    decide

/-- With its reserved bits 0, a word above its operands is its opcode (R91–R97). -/
theorem toNat_clearOperands {w : Word} {fmt : Format} (h : fmt.reserved w = 0) :
    w.toNat / 2 ^ fmt.operandBits * 2 ^ fmt.operandBits = (opcodeOf w).toNat * 2 ^ 24 := by
  rw [toNat_opcodeOf]
  cases fmt <;> simp only [Format.reserved, Format.operandBits, toNat_field] at h ⊢ <;> omega

/-- A word that decodes is a row of the opcode map (R97, R98). -/
theorem wordWellFormed_of_decode {w : Word} {i : Instr} (h : decode w = .ok i) : wordWellFormed w = true := by
  cases hmap : opcodeMap (opcodeOf w) with
  | none => rw [decode_of_unmapped hmap] at h; cases h
  | some fmt =>
    rw [decode_of_map hmap] at h
    split at h
    · rename_i hres
      refine Laws.EncodedRow.wellFormed_of_row _ _ fmt.operandBits (opcodeMap_row hmap) rfl ?_
      rw [toNat_clearOperands hres]
      exact (toNat_wordN (opcodeOf w)).symm
    · cases h

end Sys2Proof
end

section
/-! The host's accesses of client 0 as steps: what a read answers, what a write stores, and the command a written word
runs. -/

namespace Sys2Proof.Machine

/-! ### An access as a step -/

/-- A step of the host of client 0 is its access on the bus itself (R292). -/
theorem step_access_zero (s : State) (a : Access) (rest : List Event) :
    step { s with agenda := .access 0 a :: rest } = hostAccess a { s with agenda := rest } := by
  change asClient 0 (hostAccess a) { s with agenda := rest } = _
  rw [asClient, if_neg (Nat.not_lt_zero _), State.swapClient_zero]
  cases hostAccess a { s with agenda := rest } <;> rfl

/-- A read inside the window answers on the bus and changes nothing else (R61, R64). -/
theorem step_read (s : State) (n : Nat) {off : Nat} (rest : List Event) (hoff : off < windowSize) :
    step { s with agenda := .access 0 (.read n (s.cfg.base + off)) :: rest } =
      .next { s with agenda := rest, busReply := busRead n off { s with agenda := rest } } := by
  rw [step_access_zero, hostAccess, if_pos ⟨Nat.le_add_right _ _, Nat.add_lt_add_left hoff _⟩, Nat.add_sub_cancel_left]
  rfl

/-- A write R62 and R63 allow is acknowledged and stored or run (R64). -/
theorem step_write (s : State) {n off : Nat} (v : Word) (rest : List Event) (hoff : off < windowSize)
    (hok : writeError n off = none) (hr : s.resetLine = false) :
    step { s with agenda := .access 0 (.write n (s.cfg.base + off) v) :: rest } =
      storeAt off v { s with agenda := rest, busReply := .written } := by
  rw [step_access_zero, hostAccess, if_pos ⟨Nat.le_add_right _ _, Nat.add_lt_add_left hoff _⟩, Nat.add_sub_cancel_left,
    busWrite, hok]
  exact if_neg (by simp [hr])

/-! ### Reads -/

/-- A word read of an aligned register answers it (R62). -/
theorem busRead_register (s : State) {off : Nat} (hoff : off < 0x038) (halign : off % 4 = 0) :
    busRead 4 off s = .word (regRead off s) := by
  have hr : regionOf off = .register := if_pos hoff
  simp [busRead, accessError, hr, halign]

/-- A byte read of a buffer byte answers it (R62). -/
theorem busRead_buffer (s : State) {off : Nat} (hr : regionOf off = .requestBuffer ∨ regionOf off = .readOnlyBuffer) :
    busRead 1 off s = .byte (s.fcb.mem.read off) := by
  rcases hr with hr | hr <;> simp [busRead, accessError, hr]

/-- Where the four buffers lie, R61. -/
theorem regionOf_buffer {off : Nat}
    (h : 0x040 ≤ off ∧ off ≤ 0x05D ∨ 0x080 ≤ off ∧ off ≤ 0x0A4 ∨ 0x0C0 ≤ off ∧ off ≤ 0x120) :
    regionOf off = .requestBuffer ∨ regionOf off = .readOnlyBuffer := by
  unfold regionOf
  split_ifs <;> simp
  all_goals omega

/-- A flag in a register, as a number. -/
theorem toNat_ofBool_flag (b : Bool) : (BitVec.ofBool b).toNat = if b = true then 1 else 0 := by
  cases b <;> rfl

/-- A word is the word of its number. -/
theorem eq_ofNat_of_toNat {w : Word} {n : Nat} (h : w.toNat = n) : w = BitVec.ofNat 32 n := by
  rw [← h, BitVec.ofNat_toNat, BitVec.setWidth_eq]

/-- STATUS's layout, R24. -/
theorem toNat_statusWord (f : Fcb) :
    f.statusWord.toNat =
      f.cerr.code.toNat * 256 + (if f.extraBytes = true then 1 else 0) * 16 + (if f.cmdDropped = true then 1 else 0) * 8
        + (if f.txOk = true then 1 else 0) * 4 + (if f.frameOk = true then 1 else 0) * 2
        + (if f.busy = true then 1 else 0) := by
  have h : f.statusWord.toNat = ((0#20) ++ f.cerr.code ++ (0#3) ++ BitVec.ofBool f.extraBytes ++
      BitVec.ofBool f.cmdDropped ++ BitVec.ofBool f.txOk ++ BitVec.ofBool f.frameOk).toNat * 2 ^ 1 +
      (BitVec.ofBool f.busy).toNat := toNat_append_eq _ _
  rw [h]
  simp only [toNat_append_eq, toNat_ofBool_flag, BitVec.toNat_ofNat]
  omega

/-- CTRL's layout, R32. -/
theorem toNat_ctrlWord (f : Fcb) :
    f.ctrlWord.toNat = (if f.destEn = true then 1 else 0) * 2 + (if f.sharedTs = true then 1 else 0) := by
  have h : f.ctrlWord.toNat = ((0#30) ++ BitVec.ofBool f.destEn).toNat * 2 ^ 1 + (BitVec.ofBool f.sharedTs).toNat :=
    toNat_append_eq _ _
  rw [h]
  simp only [toNat_append_eq, toNat_ofBool_flag, BitVec.toNat_ofNat]
  omega

/-- TXLEN's layout, R38. -/
theorem toNat_txlenWord (f : Fcb) : f.txlenWord.toNat = f.txlen.toNat := by
  have h : f.txlenWord.toNat = (0#26).toNat * 2 ^ 6 + f.txlen.toNat := toNat_append_eq _ _
  simpa using h

/-- RXHDR's layout, R42. -/
theorem toNat_rxhdrWord (f : Fcb) :
    f.rxhdrWord.toNat = f.hlen.toNat * 16777216 + f.hrc.toNat * 65536 + f.hcmd.toNat * 256 + f.hstart.toNat := by
  have h : f.rxhdrWord.toNat = (f.hlen ++ f.hrc ++ f.hcmd).toNat * 2 ^ 8 + f.hstart.toNat := toNat_append_eq _ _
  rw [h, toNat_append_eq, toNat_append_eq]
  omega

/-- RXTAIL's layout, R43. -/
theorem toNat_rxtailWord (f : Fcb) :
    f.rxtailWord.toNat = f.stopb.toNat * 65536 + f.ck1.toNat * 256 + f.ck0.toNat := by
  have h : f.rxtailWord.toNat = ((0#8) ++ f.stopb ++ f.ck1).toNat * 2 ^ 8 + f.ck0.toNat := toNat_append_eq _ _
  rw [h, toNat_append_eq, toNat_append_eq, BitVec.toNat_ofNat]
  omega

/-- RXCK's layout, R44. -/
theorem toNat_rxckWord (f : Fcb) : f.rxckWord.toNat = f.ckcalc.toNat * 65536 + f.ckrx.toNat :=
  toNat_append_eq f.ckcalc f.ckrx

/-- DSTAT's layout, R45. -/
theorem toNat_dstatWord (f : Fcb) :
    f.dstatWord.toNat = f.dpos.toNat * 256 + f.dstate.code.toNat * 16 + f.dcode.code.toNat := by
  have h : f.dstatWord.toNat = ((0#17) ++ f.dpos ++ (0#1) ++ f.dstate.code).toNat * 2 ^ 4 + f.dcode.code.toNat :=
    toNat_append_eq _ _
  rw [h]
  simp only [toNat_append_eq, BitVec.toNat_ofNat]
  omega

/-- A word read of an aligned register whose value is this number answers it and changes nothing else. -/
theorem step_read_register (s : State) {off n : Nat} (rest : List Event) (hoff : off < 0x038) (halign : off % 4 = 0)
    (hn : (regRead off s).toNat = n) :
    step { s with agenda := .access 0 (.read 4 (s.cfg.base + off)) :: rest } =
      .next { s with agenda := rest, busReply := .word (BitVec.ofNat 32 n) } := by
  rw [step_read s 4 rest (Nat.lt_trans hoff (by decide)), busRead_register _ hoff halign, ← eq_ofNat_of_toNat hn]
  rfl

/-- Settles O44: each register reads in its layout, and each buffer byte as it is held. -/
theorem readsAnswerAndChangeNothing : Obligations.ReadsAnswerAndChangeNothing := by
  intro s rest flag
  constructor
  · simp only [List.forall_mem_cons]
    refine ⟨?_, ?_, ?_, ?_, ?_, ?_, ?_, ?_, ?_, ?_, ?_, ?_, ?_, ?_, List.forall_mem_nil _⟩ <;>
      refine step_read_register s rest (by decide) (by decide) ?_
    case refine_2 => exact toNat_statusWord s.fcb
    case refine_4 => exact toNat_ctrlWord s.fcb
    case refine_10 => exact toNat_txlenWord s.fcb
    case refine_11 => exact toNat_rxhdrWord s.fcb
    case refine_12 => exact toNat_rxckWord s.fcb
    case refine_13 => exact toNat_dstatWord s.fcb
    case refine_14 => exact toNat_rxtailWord s.fcb
    all_goals rfl
  · intro off hoff
    rw [step_read s 1 rest (by simp only [windowSize]; omega), busRead_buffer _ (regionOf_buffer hoff)]

/-! ### Writes -/

/-- A byte of TXPAY is stored with the write's low 8 bits (R37, log 13). -/
theorem storeAt_requestBuffer {off : Nat} (v : Word) (s : State) (hoff : 0x040 ≤ off) :
    storeAt off v s = .next (s.withFcb { s.fcb with mem := s.fcb.mem.write off (v.setWidth 8) }) := by
  unfold storeAt
  split
  case h_6 => rfl
  all_goals omega

/-- A bit of a word as a parity. -/
theorem getLsbD_eq_decide (v : Word) (j : Nat) : v.getLsbD j = decide (v.toNat / 2 ^ j % 2 = 1) := by
  rw [BitVec.getLsbD, Nat.testBit_eq_decide_div_mod_eq]

/-- A write of CTRL keeps the word's two low bits (R32). -/
theorem setCtrl_eq (v : Word) (f : Fcb) :
    f.setCtrl v = { f with
      sharedTs := decide (v.toNat % 2 = 1), destEn := decide (v.toNat / 2 % 2 = 1) } := by
  rw [Fcb.setCtrl, getLsbD_eq_decide, getLsbD_eq_decide, Nat.pow_zero, Nat.div_one, Nat.pow_one]

/-- TXPAY's offsets are writable byte by byte (R62, R63). -/
theorem writeError_txpay {k : Nat} (hk : k < 30) : writeError 1 (0x040 + k) = none := by
  have hr : regionOf (0x040 + k) = .requestBuffer := by
    unfold regionOf
    rw [if_neg (by omega), if_pos (by omega)]
  simp [writeError, accessError, writable, hr]

/-- Settles O45: each writable place stores the value written. -/
theorem hostWritesStore : Obligations.HostWritesStore := by
  intro s rest v hr write stored
  refine ⟨?_, ?_, ?_, ?_, fun hm k hk => ?_⟩
  · rw [← setCtrl_eq]
    exact step_write s v rest (by decide) (by decide) hr
  · exact step_write s v rest (by decide) (by decide) hr
  · exact step_write s v rest (by decide) (by decide) hr
  · exact step_write s v rest (by decide) (by decide) hr
  · refine ⟨_, (step_write s v rest (by simp only [windowSize]; omega) (writeError_txpay hk) hr).trans
      (storeAt_requestBuffer v _ (by omega)), rfl, ?_, fun a ha => Memory.read_write_other _ _ ha⟩
    have hread : ((s.fcb.mem.write (0x040 + k) (v.setWidth 8)).read (0x040 + k)).toNat = v.toNat % 256 := by
      rw [Memory.read_write_same hm, BitVec.toNat_setWidth]
    exact hread

/-! ### Command words -/

/-- The table's 32-bit word of a command word's number is the word. -/
theorem tableWord_toNat (w : Word) : tableWord 32 w.toNat = w := by
  rw [tableWord, Nat.mod_eq_of_lt w.isLt, BitVec.ofNat_toNat, BitVec.setWidth_eq]

/-- With no wait in progress and reset not asserted, a fetched word is accepted as a command word (R23, R97, log 4). -/
theorem step_withFetchWord {s : State} (w : Word) (hb : s.fcb.busy = false) (hr : s.resetLine = false) :
    step (s.withFetchWord 32 w.toNat) = commandWord w { s with busReply := .written } := by
  have hfetch : s.withFetchWord 32 w.toNat =
      { s with agenda := .access 0 (.write 4 (s.cfg.base + 0) w) :: s.agenda } := by
    rw [State.withFetchWord, tableWord_toNat]
    rfl
  rw [hfetch, step_write s w s.agenda (by decide) (by decide) hr]
  exact if_neg (by simp [hb])

/-- Settles O5: an accepted word runs the command it decodes to, and raises ILLEGAL_COMMAND where it decodes to none. -/
theorem stepRunsDecodedCommand : Obligations.StepRunsDecodedCommand := by
  constructor
  · intro w i s hd hb hr
    rw [step_withFetchWord w hb hr, commandWord, hd]
    rfl
  · intro w s hw hb hr
    rw [step_withFetchWord w hb hr, commandWord]
    cases hd : decode w with
    | error e => rfl
    | ok i => exact absurd (hw.symm.trans (wordWellFormed_of_decode hd)) Bool.false_ne_true

end Sys2Proof.Machine
end

section
/-! The memory family's own statements: the accesses the window refuses, the effect of a command outside its instance, and
the places of the held buffer bytes. -/

namespace Sys2Proof.Machine

/-! ### Refused accesses -/

/-- Where the read-only buffers lie, R61. -/
theorem regionOf_eq_readOnlyBuffer {off : Nat} (h : regionOf off = .readOnlyBuffer) :
    0x080 ≤ off ∧ off ≤ 0x0A4 ∨ 0x0C0 ≤ off ∧ off ≤ 0x120 := by
  unfold regionOf at h
  split_ifs at h <;> omega

/-- The registers' offsets, R61. -/
theorem regionOf_eq_register {off : Nat} (h : regionOf off = .register) : off < 0x038 := by
  unfold regionOf at h
  split_ifs at h
  assumption

/-- An access without a bus error is an aligned word access to a register or a byte access to a buffer (R62). -/
theorem allowed_of_accessError {n off : Nat} (h : accessError n off = none) :
    (off < 0x038 ∧ n = 4 ∧ off % 4 = 0) ∨
    ((0x040 ≤ off ∧ off ≤ 0x05D ∨ 0x080 ≤ off ∧ off ≤ 0x0A4 ∨ 0x0C0 ≤ off ∧ off ≤ 0x120) ∧ n = 1) := by
  cases hr : regionOf off <;> simp only [accessError, hr] at h
  case register =>
    split_ifs at h with hn ha
    exact .inl ⟨regionOf_eq_register hr, not_not.mp hn, not_not.mp ha⟩
  case requestBuffer =>
    split_ifs at h with hn
    exact .inr ⟨.inl (regionOf_eq_requestBuffer hr), not_not.mp hn⟩
  case readOnlyBuffer =>
    split_ifs at h with hn
    exact .inr ⟨.inr (regionOf_eq_readOnlyBuffer hr), not_not.mp hn⟩
  case reserved => cases h

/-- A write without a bus error is an access without one to a place the host may write (R63). -/
theorem allowed_of_writeError {n off : Nat} (h : writeError n off = none) :
    accessError n off = none ∧ writable off = true := by
  unfold writeError at h
  split at h
  · cases h
  · split at h
    · exact ⟨‹_›, ‹_›⟩
    · cases h

/-- The places a host may write are CMD, CTRL, DELAY, LAST, SHLAST and TXPAY (R63). -/
theorem place_of_writable {off : Nat} (h : writable off = true) :
    off ∈ [0x000, 0x00C, 0x010, 0x018, 0x01C] ∨ (0x040 ≤ off ∧ off ≤ 0x05D) := by
  simp only [writable, Bool.or_eq_true, beq_iff_eq] at h
  rcases h with hreg | hbuf
  · exact .inl (by simpa [or_assoc] using hreg)
  · exact .inr (regionOf_eq_requestBuffer hbuf)

/-- A read the window refuses answers its bus error. -/
theorem busRead_error (s : State) {n off : Nat} {e : Fault} (h : accessError n off = some e) :
    busRead n off s = .error e := by
  rw [busRead, h]

/-- A write the window refuses is answered with its bus error and changes nothing else, reset asserted or not (R63,
log 8). -/
theorem step_write_error (s : State) {n off : Nat} (v : Word) (rest : List Event) {e : Fault} (hoff : off < windowSize)
    (h : writeError n off = some e) :
    step { s with agenda := .access 0 (.write n (s.cfg.base + off) v) :: rest } =
      .next { s with agenda := rest, busReply := .error e } := by
  rw [step_access_zero, hostAccess, if_pos ⟨Nat.le_add_right _ _, Nat.add_lt_add_left hoff _⟩, Nat.add_sub_cancel_left,
    busWrite, h]
  rfl

/-- Settles O43: an access outside those R62 and R63 allow has a bus error, and a bus error is all the step records. -/
theorem busErrorsChangeNothing : Obligations.BusErrorsChangeNothing := by
  intro s rest n off v hoff isReg isBuf allowed hostMayWrite
  constructor
  · intro hnot
    have hne : accessError n off ≠ none := fun h => hnot (allowed_of_accessError h)
    obtain ⟨e, he⟩ := Option.ne_none_iff_exists'.mp hne
    exact ⟨e, by rw [step_read s n rest hoff, busRead_error _ he]⟩
  · intro hnot
    have hne : writeError n off ≠ none := fun h =>
      have ⟨haccess, hplace⟩ := allowed_of_writeError h
      hnot ⟨allowed_of_accessError haccess, place_of_writable hplace⟩
    obtain ⟨e, he⟩ := Option.ne_none_iff_exists'.mp hne
    exact ⟨e, step_write_error s v rest hoff he⟩

/-! ### A command and the shared timestamp -/

/-- SHCELL after a command: as before, or NOW by a TG_MARK of an instance with SHARED_TS = 1 (R257). -/
theorem exec_shcell_cases {i : Instr} {s t : State} (h : exec i s = .next t) :
    t.shcell = s.shcell ∨ (i = .tgMark ∧ s.fcb.sharedTs = true ∧ t.shcell = s.now) := by
  cases exec_effect h with
  | tgMark =>
    by_cases hts : s.fcb.sharedTs = true
    · exact .inr ⟨rfl, hts, if_pos hts⟩
    · exact .inl (if_neg hts)
  | _ => exact .inl rfl

/-- Settles O46: every command completes within its instance and SHCELL, and only a shared mark writes SHCELL. -/
theorem commandsActOnTheirOwnInstance : Obligations.CommandsActOnTheirOwnInstance := by
  intro i s
  obtain ⟨g, c, h⟩ := exec_ownEffect i s
  exact ⟨{ s with fcb := g, shcell := c }, h, rfl, exec_shcell_cases h⟩

/-! ### The places of the held bytes -/

/-- A run of bytes stored inside the four buffers keeps the held bytes inside them (R61). -/
theorem writeBytes_memInBuffers {f g : Fcb} (hf : f.memInBuffers) {a : Nat} {vs : List Byte}
    (hg : g.mem = f.mem.writeBytes a vs)
    (hin : ∀ off, a ≤ off → off < a + vs.length →
      0x040 ≤ off ∧ off ≤ 0x05D ∨ 0x080 ≤ off ∧ off ≤ 0x0A4 ∨ 0x0C0 ≤ off ∧ off ≤ 0x120) : g.memInBuffers := by
  intro c hc
  rw [hg] at hc
  rcases Memory.mem_writeBytes hc with ⟨hlo, hhi⟩ | hc
  · exact regionOf_buffer (hin c.1 hlo hhi)
  · exact hf c hc

/-- A byte stored inside the four buffers keeps the held bytes inside them (R61). -/
theorem write_memInBuffers {f g : Fcb} (hf : f.memInBuffers) {a : Nat} {b : Byte} (hg : g.mem = f.mem.write a b)
    (ha : regionOf a = .requestBuffer ∨ regionOf a = .readOnlyBuffer) : g.memInBuffers := by
  intro c hc
  rw [hg] at hc
  rcases Memory.mem_write hc with hc | hc
  · exact hc ▸ ha
  · exact hf c hc

/-- A request frame is its payload and 7 bytes more (R122). -/
theorem length_requestFrame (o : CksumOrder) (d k l : Byte) (p : List Byte) (v : Half) :
    (requestFrame o d k l p v).length = p.length + 7 := by
  simp [requestFrame]

/-- The balance string with its terminator takes at most the 33 bytes of OUTSTR (R40, R220). -/
theorem length_balString_le (f : Fcb) : f.balString.length ≤ 33 := by
  have hcells : f.balCells ≤ 32 := Nat.min_le_right _ _
  simp only [Fcb.balString, List.length_append, List.length_map, List.length_range, List.length_singleton]
  omega

/-- An executed command writes into the four buffers alone, given the decoder's invariant (R37–R40, R61). -/
theorem exec_keeps_memInBuffers {i : Instr} {s t : State} (hd : s.fcb.decodeInv) (hm : s.fcb.memInBuffers)
    (h : exec i s = .next t) : t.fcb.memInBuffers := by
  rcases exec_mem_cases h with h | ⟨-, h⟩ | ⟨b, -, h⟩ | ⟨d, k, l, -, -, hl, h⟩ | ⟨b, -, hp, h⟩ | ⟨-, h⟩
  · rw [Fcb.memInBuffers, h]
    exact hm
  · rw [Fcb.memInBuffers, h]
    exact List.forall_mem_nil _
  · refine writeBytes_memInBuffers hm h fun off hlo hhi => ?_
    simp only [txpayBase, List.length_cons, List.length_nil] at hlo hhi
    omega
  · refine writeBytes_memInBuffers hm h fun off hlo hhi => ?_
    rw [length_requestFrame, Fcb.requestPayload, Memory.length_readBytes] at hhi
    simp only [txframeBase] at hlo hhi
    omega
  · obtain ⟨-, -, hpay, -⟩ := hd
    obtain ⟨hlen, hlo, hhi⟩ := hpay hp
    refine write_memInBuffers hm h (regionOf_buffer ?_)
    simp only [rxpayBase]
    omega
  · refine writeBytes_memInBuffers hm h fun off hlo hhi => ?_
    have hstr := length_balString_le s.fcb
    simp only [outstrBase] at hlo hhi
    omega

/-- Settles O59: the host writes bytes of TXPAY alone, and a command writes inside the buffers. -/
theorem stepKeepsBuffersInPlace : Obligations.StepKeepsBuffersInPlace := by
  intro s t hs h
  have hkept : t.everyFcb (fun f => f.decodeInv ∧ f.memInBuffers) := by
    refine step_keeps_everyFcb_of_exec _ ⟨by decide, List.forall_mem_nil _⟩ ?_ (fun _ _ _ _ _ _ _ _ hp => hp) ?_ ?_ hs h
    · rintro f ⟨hd, hm⟩
      refine ⟨tick_keeps_decodeInv f hd, ?_⟩
      obtain ⟨w, b, e, heq⟩ := tick_cases f
      rw [heq]
      exact hm
    · rintro f off b hr ⟨hd, hm⟩
      exact ⟨hd, write_memInBuffers hm rfl (.inl hr)⟩
    · rintro i u v - - ⟨hd, hm⟩ he
      exact ⟨exec_keeps_decodeInv hd he, exec_keeps_memInBuffers hd hm he⟩
  exact ⟨hkept.1.2, fun f hf => (hkept.2 f hf).2⟩

end Sys2Proof.Machine
end

section
/-! The encoding family: decode and encode undo each other, and the decoder accepts exactly the rows of the opcode map.
Both go through the formats: what a format reads from a word and how its word is put together again. -/

namespace Sys2Proof

/-! ### Decoding the word of a format (R91–R96) -/

/-- The word of an opcode of format N decodes to its command. -/
theorem decode_wordN {op : Byte} {mk : Instr} (h : opcodeMap op = some (.n mk)) : decode (wordN op) = .ok mk := by
  rw [decode_of_map (by rwa [opcodeOf_wordN])]
  exact if_pos (reserved_words op 0 0 0 0 mk .decByte .date .cksum).1

/-- A word of an opcode of format B or O decodes to its command with the field. -/
theorem decode_wordB {op b : Byte} {mk : Byte → Instr} (h : opcodeMap op = some (.b mk)) :
    decode (wordB op b) = .ok (mk b) := by
  rw [decode_of_map (by rwa [opcodeOf_wordB]), if_pos (reserved_words op b 0 0 0 .nop mk .date .cksum).2.1,
    Format.fill, field_wordB]

/-- A word of an opcode of format H decodes to its command with the field. -/
theorem decode_wordH {op : Byte} {v : Half} {mk : Half → Instr} (h : opcodeMap op = some (.h mk)) :
    decode (wordH op v) = .ok (mk v) := by
  rw [decode_of_map (by rwa [opcodeOf_wordH]), if_pos (reserved_words op 0 0 0 v .nop .decByte mk .cksum).2.2.1,
    Format.fill, field_wordH]

/-- A word of an opcode of format C decodes to its command with both fields. -/
theorem decode_wordC {op t l : Byte} {mk : Byte → Byte → Instr} (h : opcodeMap op = some (.c mk)) :
    decode (wordC op t l) = .ok (mk t l) := by
  obtain ⟨ht, hl⟩ := fields_wordC op t l
  rw [decode_of_map (by rwa [opcodeOf_wordC]), if_pos (reserved_words op 0 t l 0 .nop .decByte .date mk).2.2.2,
    Format.fill, ht, hl]

/-- A word of an opcode of format F decodes to its command with the three fields; it has no reserved bits. -/
theorem decode_wordF {op d k l : Byte} {mk : Byte → Byte → Byte → Instr} (h : opcodeMap op = some (.f mk)) :
    decode (wordF op d k l) = .ok (mk d k l) := by
  obtain ⟨hd, hk, hl⟩ := fields_wordF op d k l
  have hres : (Format.f mk).reserved (wordF op d k l) = 0 := rfl
  rw [decode_of_map (by rwa [opcodeOf_wordF]), if_pos hres, Format.fill, hd, hk, hl]

/-- Settles O1: a command's word is a word of its format, and its opcode maps back to that format with that command. -/
theorem decodeOfEncodeIsIdentity : Obligations.DecodeOfEncodeIsIdentity := by
  intro i
  cases i
  case nop | srst | clrerr | decStart | decEos | balStr | tgWait | tgMark => exact decode_wordN rfl
  case decByte | rdU8 | rdU16be | rdU16le | rdS16be | rdS16le | rdCell | tempDk | tempDc | balBit | mosPay =>
    exact decode_wordB rfl
  case bswap16 | date | k2dc => exact decode_wordH rfl
  case ftCellOv | ftCellUv | ftPackOv | ftPackUv | ftChgOt | ftChgUt | ftDsgOt | ftDsgUt | ftChgOc | ftDsgOc | ftShort |
      ftIcErr | ftMosLock => exact decode_wordH rfl
  case cksum => exact decode_wordC rfl
  case encode => exact decode_wordF rfl

/-- Settles O4: each of the nine words is the encoding of its command. -/
theorem specWordsDecode : Obligations.SpecWordsDecode :=
  have h := decodeOfEncodeIsIdentity
  ⟨h .nop, h (.cksum 0xE1#8 2#8), h (.encode 0x5A#8 0x10#8 30#8), h (.decByte 0xDD#8), h (.rdS16be 2#8),
    h (.ftShort 0x0401#16), h (.date 0x339F#16), h (.balBit 20#8), h .tgMark⟩

/-! ### The word of a decoded command -/

/-- The word of a format with this opcode and with the operand fields of w, its reserved bits 0 (R91–R96). -/
def Format.reassemble (op : Byte) (w : Word) : Format → Word
  | .n _ => wordN op
  | .b _ => wordB op (w.extractLsb' 0 8)
  | .h _ => wordH op (w.extractLsb' 0 16)
  | .c _ => wordC op (w.extractLsb' 8 8) (w.extractLsb' 0 8)
  | .f _ => wordF op (w.extractLsb' 16 8) (w.extractLsb' 8 8) (w.extractLsb' 0 8)

/-- The encoder gives a command read from a word the opcode and the format it was read with (R98). -/
theorem encode_fill {op : Byte} {fmt : Format} (w : Word) (h : opcodeMap op = some fmt) :
    encode (fmt.fill w) = fmt.reassemble op w := by
  have hop : op = BitVec.ofNat 8 op.toNat := by simp
  unfold opcodeMap at h
  split at h
  case h_38 => cases h
  all_goals
    rename_i hn
    cases h
    rw [hop, hn]
    rfl

/-- With its reserved bits 0, a word is its opcode and its operand fields put together. -/
theorem reassemble_opcodeOf {w : Word} {fmt : Format} (h : fmt.reserved w = 0) :
    fmt.reassemble (opcodeOf w) w = w := by
  apply BitVec.eq_of_toNat_eq
  cases fmt <;>
    simp only [Format.reserved, Format.reassemble, toNat_wordN, toNat_wordB, toNat_wordH, toNat_wordC, toNat_wordF,
      toNat_opcodeOf, toNat_field] at h ⊢ <;>
    omega

/-- A word decodes to what the format of its opcode reads from it, and has no reserved bit set. -/
theorem format_of_decode {w : Word} {i : Instr} (h : decode w = .ok i) :
    ∃ fmt, opcodeMap (opcodeOf w) = some fmt ∧ fmt.reserved w = 0 ∧ i = fmt.fill w := by
  cases hmap : opcodeMap (opcodeOf w) with
  | none => rw [decode_of_unmapped hmap] at h; cases h
  | some fmt =>
    rw [decode_of_map hmap] at h
    split at h
    · rename_i hres
      cases h
      exact ⟨fmt, rfl, hres, rfl⟩
    · cases h

/-- Settles O2: an accepted word is its opcode and the operand fields the decoder reads, for its reserved bits are 0. -/
theorem encodeOfDecodeIsIdentity : Obligations.EncodeOfDecodeIsIdentity := by
  intro w i h
  obtain ⟨fmt, hmap, hres, rfl⟩ := format_of_decode h
  rw [encode_fill w hmap, reassemble_opcodeOf hres]

/-! ### The rows of the opcode map are the decoder's (R97–R99) -/

/-- The row of the opcode map for an opcode and its format: the opcode in front, the operand bits free. -/
def Format.row (op : Byte) (fmt : Format) : OpRow := ⟨wordN op, BitVec.allOnes 32 <<< fmt.operandBits⟩

/-- Every row of the opcode map is the row of its opcode under the decoder's format of that opcode (R98). -/
theorem row_of_opcodeMap :
    ∀ r ∈ opcodeRows, (opcodeMap (opcodeOf r.matchBits)).map (·.row (opcodeOf r.matchBits)) = some r := by decide

/-- Masking the low k bits of a word away, as a number. -/
theorem toNat_and_allOnes_shiftLeft (w : Word) (k : Nat) :
    (w &&& BitVec.allOnes 32 <<< k).toNat = w.toNat / 2 ^ k * 2 ^ k := by
  rw [← BitVec.shiftLeft_ushiftRight, BitVec.toNat_shiftLeft, BitVec.toNat_ushiftRight, Nat.shiftLeft_eq,
    Nat.shiftRight_eq_div_pow]
  exact Nat.mod_eq_of_lt (Nat.lt_of_le_of_lt (Nat.div_mul_le_self _ _) w.isLt)

/-- A word that a format's row accepts has the row's opcode and no reserved bit set. -/
theorem opcodeOf_reserved_of_accepts {w : Word} {op : Byte} {fmt : Format} (h : (fmt.row op).accepts w = true) :
    opcodeOf w = op ∧ fmt.reserved w = 0 := by
  have hw : w.toNat / 2 ^ fmt.operandBits * 2 ^ fmt.operandBits = op.toNat * 2 ^ 24 := by
    rw [← toNat_and_allOnes_shiftLeft, ← toNat_wordN]
    exact congrArg BitVec.toNat (eq_of_beq h)
  constructor
  · rw [← BitVec.toNat_inj, toNat_opcodeOf]
    cases fmt <;> simp only [Format.operandBits] at hw <;> omega
  · cases fmt with
    | f => rfl
    | _ => simp only [Format.reserved, Format.operandBits, toNat_field] at hw ⊢; omega

/-- A word that a row of the opcode map accepts decodes (R97, R98). -/
theorem decode_of_wordWellFormed {w : Word} (h : wordWellFormed w = true) : ∃ i, decode w = .ok i := by
  obtain ⟨r, hr, hacc⟩ := List.any_eq_true.mp h
  obtain ⟨fmt, hmap, hrow⟩ := Option.map_eq_some_iff.mp (row_of_opcodeMap r hr)
  rw [← hrow] at hacc
  obtain ⟨hop, hres⟩ := opcodeOf_reserved_of_accepts hacc
  refine ⟨fmt.fill w, ?_⟩
  rw [decode_of_map (hop ▸ hmap), if_pos hres]

/-- The opcodes of R99's ranges are not in the map. -/
theorem opcodeMap_of_reserved {op : Byte} (h : 0x03 ≤ op.toNat ∧ op.toNat ≤ 0x0F ∨ 0x15 ≤ op.toNat ∧ op.toNat ≤ 0x1F ∨
    0x27 ≤ op.toNat ∧ op.toNat ≤ 0x2F ∨ 0x3D ≤ op.toNat ∧ op.toNat ≤ 0x3F ∨ 0x47 ≤ op.toNat ∧ op.toNat ≤ 0x4F ∨
    0x52 ≤ op.toNat) : opcodeMap op = none := by
  unfold opcodeMap
  split
  case h_38 => rfl
  all_goals omega

end Sys2Proof

namespace Sys2Proof.Machine

/-- Accepting a word that decodes runs its command with CMD holding the word (R23). -/
theorem commandWord_of_decode {w : Word} {i : Instr} (s : State) (h : decode w = .ok i) :
    commandWord w s = exec i { s with fcb := { s.fcb with cmd := w } } := by
  rw [commandWord, h]
  rfl

/-- Accepting a word that is no command only raises ILLEGAL_COMMAND, with CMD holding the word (R23, R97). -/
theorem commandWord_of_decode_error {w : Word} {e : DecodeError} (s : State) (h : decode w = .error e) :
    commandWord w s = .next (s.illegal w) := by
  rw [commandWord, h]
  rfl

/-- Settles O3: the rows of the opcode map are the words that decode, and no opcode of R99's ranges is in the map. -/
theorem commandWordIsMapRowOrIllegal : Obligations.CommandWordIsMapRowOrIllegal := by
  intro w s
  refine ⟨fun hw => ?_, fun hw => ?_, fun hop => ?_⟩
  · obtain ⟨i, hd⟩ := decode_of_wordWellFormed hw
    exact ⟨i, hd, encodeOfDecodeIsIdentity w i hd, commandWord_of_decode s hd⟩
  · have hnone : ∀ i, decode w ≠ .ok i := fun i hd =>
      Bool.false_ne_true (hw.symm.trans (wordWellFormed_of_decode hd))
    refine ⟨hnone, ?_⟩
    cases hd : decode w with
    | error e => exact commandWord_of_decode_error s hd
    | ok i => exact absurd hd (hnone i)
  · exact commandWord_of_decode_error s (decode_of_unmapped (opcodeMap_of_reserved hop))

end Sys2Proof.Machine
end

section
/-! The frame codec's first layer: the reserved bits of a format as a mask, the checksum of R120 as a number, and what
CKSUM and ENCODE leave, with the one place where SENTINEL_COMPAT matters. -/

namespace Sys2Proof

/-! ### Reserved bits (R91–R97) -/

/-- The reserved bits of a format as a mask (R91–R96). -/
def Format.reservedMask : Format → Word
  | .n _ => 0x00FFFFFF#32
  | .b _ => 0x00FFFF00#32
  | .h _ => 0x00FF0000#32
  | .c _ => 0x00FF0000#32
  | .f _ => 0x00000000#32

/-- A word with a field of 0 has no bit in common with the field's mask. -/
theorem and_mask_eq_zero {w : Word} {lo n : Nat} (h : (w.extractLsb' lo n).toNat = 0) :
    w &&& (BitVec.allOnes n).setWidth 32 <<< lo = 0#32 := by
  have hfield : w.extractLsb' lo n = 0#n := BitVec.eq_of_toNat_eq (by simpa using h)
  apply BitVec.eq_of_getLsbD_eq
  intro j hj
  by_cases hin : lo ≤ j ∧ j < lo + n
  · have hbit : (w.extractLsb' lo n).getLsbD (j - lo) = w.getLsbD j := by
      rw [BitVec.getLsbD_extractLsb', Nat.add_sub_cancel' hin.1]
      simp
      omega
    rw [hfield] at hbit
    simp [← hbit]
  · simp
    omega

/-- A word whose reserved field is 0 has no reserved bit set. -/
theorem and_reservedMask {w : Word} {fmt : Format} (h : fmt.reserved w = 0) : w &&& fmt.reservedMask = 0#32 := by
  cases fmt with
  | n => exact and_mask_eq_zero (lo := 0) (n := 24) h
  | b => exact and_mask_eq_zero (lo := 8) (n := 16) h
  | h => exact and_mask_eq_zero (lo := 16) (n := 8) h
  | c => exact and_mask_eq_zero (lo := 16) (n := 8) h
  | f => exact BitVec.and_zero

end Sys2Proof

namespace Sys2Proof.Machine

/-- A word of an opcode of the map with a reserved bit of its format set raises ILLEGAL_COMMAND (R91–R97). -/
theorem illegalWhenReserved_of_map {op : Byte} {fmt : Format} (hmap : opcodeMap op = some fmt) :
    IllegalWhenReserved op fmt.reservedMask := by
  intro w s hop hbits
  refine commandWord_of_decode_error s (e := .reservedBits (opcodeOf w)) ?_
  rw [decode_of_map (hop ▸ hmap), if_neg fun hres => hbits (and_reservedMask hres)]

/-! ### The checksum (R120, R121) -/

/-- Settles O11: the fold of subtractions is the closed formula, and the formula depends on the payload's sum alone. -/
theorem checksumIsAdditive : Obligations.ChecksumIsAdditive := by
  intro t l p
  refine ⟨toNat_ck16 t l p, fun q hpq => ?_⟩
  have hsum : byteSum p = byteSum q := (hpq.map BitVec.toNat).sum_eq
  apply BitVec.eq_of_toNat_eq
  rw [toNat_ck16, toNat_ck16, hsum]

/-- The checksum formula gives a 16-bit number. -/
theorem ckNat_lt (t l sum : Nat) : ckNat t l sum < 65536 := Nat.mod_lt _ (by decide)

/-- The checksum as the 16-bit vector of its number. -/
theorem ck16_eq_ofNat (t l : Byte) (p : List Byte) :
    ck16 t l p = BitVec.ofNat 16 (ckNat t.toNat l.toNat (byteSum p)) := by
  rw [← toNat_ck16, BitVec.ofNat_toNat, BitVec.setWidth_eq]

/-- The bytes on the wire assemble to the value they were made from (R121). -/
theorem assembleCk_wireCk (o : CksumOrder) (v : Half) : assembleCk o (wireCk o v).1 (wireCk o v).2 = v := by
  have hv := v.isLt
  apply BitVec.eq_of_toNat_eq
  cases o <;>
    simp only [toNat_assembleCk, wireNat, wireCk, BitVec.extractLsb'_toNat, Nat.shiftRight_eq_div_pow] <;> omega

/-- Settles O12: the wire bytes, their assembly as numbers, and the round trip. -/
theorem wireOrderRoundTrips : Obligations.WireOrderRoundTrips :=
  fun o v c0 c1 => ⟨wireCk_eq_wireBytes o v, toNat_assembleCk o c0 c1, assembleCk_wireCk o v⟩

/-! ### The request checksum (R125–R127) -/

/-- The request payload is the bytes of TXPAY. -/
theorem requestPayload_eq_map (l : Byte) (f : Fcb) : f.requestPayload l = (List.range l.toNat).map f.txpay :=
  Memory.readBytes_eq_map _ _ _

/-- The checksum of the request payload as a number. -/
theorem toNat_requestCk16 (t l : Byte) (f : Fcb) :
    (ck16 t l (f.requestPayload l)).toNat = ckNat t.toNat l.toNat (f.txSum l.toNat) := by
  rw [toNat_ck16, requestPayload_eq_map]
  rfl

/-- The checksum of the request payload as the value of RESULT. -/
theorem zext32_requestCk16 (t l : Byte) (f : Fcb) :
    zext32 (ck16 t l (f.requestPayload l)) = BitVec.ofNat 32 (ckNat t.toNat l.toNat (f.txSum l.toNat)) := by
  rw [zext32_eq_ofNat _ (by decide), toNat_requestCk16]

/-- When the request checksum is refused: a length above 30, or a checksum of 0 under SENTINEL_COMPAT (R125, R127). -/
def requestRefused (cfg : Config) (t l : Byte) (f : Fcb) : Prop :=
  31 ≤ l.toNat ∨ (cfg.sentinelCompat = true ∧ ckNat t.toNat l.toNat (f.txSum l.toNat) = 0)

/-- A checksum of 0 as a number. -/
theorem requestCk16_eq_zero_iff (t l : Byte) (f : Fcb) :
    ck16 t l (f.requestPayload l) = 0#16 ↔ ckNat t.toNat l.toNat (f.txSum l.toNat) = 0 := by
  rw [← toNat_requestCk16, ← BitVec.toNat_inj]
  rfl

/-- A refused request checksum is MALFORMED_LENGTH. -/
theorem requestCk_of_refused {cfg : Config} {t l : Byte} {f : Fcb} (h : requestRefused cfg t l f) :
    requestCk cfg t l f = .error .malformedLength := by
  rcases requestCk_cases cfg t l f with ⟨-, hr⟩ | ⟨hl, hs, -⟩
  · exact hr
  · rw [ne_eq, requestCk16_eq_zero_iff] at hs
    rcases h with h | ⟨h1, h2⟩
    · omega
    · simp [h1, h2] at hs

/-- A request checksum that is not refused is given. -/
theorem requestCk_of_not_refused {cfg : Config} {t l : Byte} {f : Fcb} (h : ¬ requestRefused cfg t l f) :
    requestCk cfg t l f = .ok (ck16 t l (f.requestPayload l)) := by
  rcases requestCk_cases cfg t l f with ⟨hs, -⟩ | ⟨-, -, hr⟩
  · rw [requestCk16_eq_zero_iff] at hs
    exact absurd hs h
  · exact hr

/-- CKSUM with a refused checksum raises MALFORMED_LENGTH with RESULT 0 (R125). -/
theorem execCksum_malformed {t l : Byte} {s : State} (h : requestRefused s.cfg t l s.fcb) :
    execCksum t l s = .next { s with fcb := { s.fcb with result := 0#32, cerr := .malformedLength } } := by
  rw [execCksum, requestCk_of_refused h]
  rfl

/-- CKSUM answers a checksum that is given (R125). -/
theorem execCksum_ok {t l : Byte} {s : State} (h : ¬ requestRefused s.cfg t l s.fcb) :
    execCksum t l s = .next (s.answered (BitVec.ofNat 32 (ckNat t.toNat l.toNat (s.fcb.txSum l.toNat)))) := by
  rw [execCksum, requestCk_of_not_refused h, ← zext32_requestCk16]
  rfl

/-- Settles O13: CKSUM ends by whether its checksum is refused; its word is of format C. -/
theorem checksumCommandResult : Obligations.ChecksumCommandResult := by
  refine ⟨fun t l s => ?_, fun t l => decode_wordC rfl, illegalWhenReserved_of_map (fmt := .c .cksum) rfl⟩
  by_cases h : requestRefused s.cfg t l s.fcb
  · exact (execCksum_malformed h).trans (congrArg _ (if_pos h).symm)
  · exact (execCksum_ok h).trans (congrArg _ (if_neg h).symm)

/-! ### ENCODE (R126) -/

/-- ENCODE refuses a direction that is neither read nor write (R126). -/
theorem execEncode_badArgument {d k l : Byte} {s : State} (hr : d ≠ 0xA5#8) (hw : d ≠ 0x5A#8) :
    execEncode d k l s =
      .next { s with fcb := { s.fcb with txOk := false, txlen := 0#6, cerr := .badArgument } } := by
  rw [execEncode]
  exact if_pos ⟨hr, hw⟩

/-- A direction of R126 passes ENCODE's first check. -/
theorem legalDirection {d : Byte} (hd : d = 0xA5#8 ∨ d = 0x5A#8) : ¬ (d ≠ Config.dirRead ∧ d ≠ Config.dirWrite) :=
  fun h => hd.elim h.1 h.2

/-- ENCODE of a legal direction with a refused checksum raises MALFORMED_LENGTH (R126, R127). -/
theorem execEncode_malformed {d k l : Byte} {s : State} (hd : d = 0xA5#8 ∨ d = 0x5A#8)
    (h : requestRefused s.cfg k l s.fcb) :
    execEncode d k l s = .next { s with
      fcb := { s.fcb with txOk := false, txlen := 0#6, result := 0#32, cerr := .malformedLength } } := by
  rw [execEncode, if_neg (legalDirection hd), requestCk_of_refused h]
  rfl

/-- ENCODE of a legal direction writes the frame of R122 where the checksum is given (R126). -/
theorem execEncode_ok {d k l : Byte} {s : State} (hd : d = 0xA5#8 ∨ d = 0x5A#8)
    (h : ¬ requestRefused s.cfg k l s.fcb) :
    execEncode d k l s = .next { s with
      fcb := { s.fcb with
        mem := s.fcb.mem.writeBytes txframeBase (frameBytes s.cfg.wireCksumOrder d k k l (s.fcb.requestPayload l)),
        txlen := BitVec.ofNat 6 (l.toNat + 7), txOk := true, cerr := .ok,
        result := BitVec.ofNat 32 (ckNat k.toNat l.toNat (s.fcb.txSum l.toNat)) } } := by
  have hlen : BitVec.ofNat 6 (l.toNat + 7) = l.setWidth 6 + 7#6 := by
    apply BitVec.eq_of_toNat_eq
    simp
  rw [execEncode, if_neg (legalDirection hd), requestCk_of_not_refused h, ← zext32_requestCk16, hlen,
    ← requestFrame_eq_frameBytes]
  rfl

/-- A frame's bytes are its payload and 7 bytes more (R122, R123). -/
theorem length_frameBytes (o : CksumOrder) (b1 b2 t l : Byte) (p : List Byte) :
    (frameBytes o b1 b2 t l p).length = p.length + 7 := by
  cases o <;> simp [frameBytes, wireBytes]

/-- Settles O15: ENCODE's three ends, and the bytes of the frame read back from TXFRAME. -/
theorem encodeBuildsRequestFrame : Obligations.EncodeBuildsRequestFrame := by
  refine ⟨fun d k l s hr hw => execEncode_badArgument hr hw, fun d k l s hd h => execEncode_malformed hd h,
    fun d k l s hd hl hs hm => ?_, fun d k l => decode_wordF rfl⟩
  have hok : ¬ requestRefused s.cfg k l s.fcb := by
    rintro (h | ⟨h1, h2⟩)
    · omega
    · simp [h1, h2] at hs
  have hlen : (frameBytes s.cfg.wireCksumOrder d k k l (s.fcb.requestPayload l)).length = l.toNat + 7 := by
    rw [length_frameBytes, Fcb.requestPayload, Memory.length_readBytes]
  refine ⟨_, execEncode_ok hd hok, rfl, ?_, fun a ha => ?_⟩
  · rw [← hlen, ← requestPayload_eq_map]
    exact Memory.readBytes_writeBytes hm _ _
  · refine Memory.read_writeBytes_other _ _ _ ?_
    rw [hlen, txframeBase]
    omega

/-! ### SENTINEL_COMPAT (R127) -/

/-- A sum of bytes is at most 255 a byte. -/
theorem byteSum_le (p : List Byte) : byteSum p ≤ 255 * p.length := by
  induction p with
  | nil => exact Nat.le_refl 0
  | cons b p ih =>
    have hsum : byteSum (b :: p) = b.toNat + byteSum p := rfl
    rw [hsum, List.length_cons]
    omega

/-- A request's checksum is 0 for the zero request alone: the sum of its bytes stays below 2^16 (R127). -/
theorem requestCkNat_eq_zero_iff {t l : Byte} {f : Fcb} (hl : l.toNat ≤ 30) :
    ckNat t.toNat l.toNat (f.txSum l.toNat) = 0 ↔ t = 0#8 ∧ l = 0#8 := by
  have hsum : f.txSum l.toNat ≤ 255 * 30 := by
    have := byteSum_le ((List.range l.toNat).map f.txpay)
    rw [List.length_map, List.length_range] at this
    exact this.trans (Nat.mul_le_mul_left 255 hl)
  constructor
  · intro h
    rw [← BitVec.toNat_inj, ← BitVec.toNat_inj, BitVec.toNat_ofNat]
    rw [ckNat] at h
    omega
  · rintro ⟨rfl, rfl⟩
    simp [ckNat, Fcb.txSum, byteSum]

/-- The state under the other value of SENTINEL_COMPAT. -/
def State.withSentinel (b : Bool) (s : State) : State := { s with cfg := { s.cfg with sentinelCompat := b } }

/-- Whether a request other than the zero request is refused does not depend on SENTINEL_COMPAT (R127). -/
theorem requestRefused_withSentinel {s : State} {t l : Byte} (b : Bool) (h : ¬ (t = 0#8 ∧ l = 0#8)) :
    requestRefused (s.withSentinel b).cfg t l s.fcb ↔ requestRefused s.cfg t l s.fcb := by
  have hlong : ∀ cfg, requestRefused cfg t l s.fcb ↔ 31 ≤ l.toNat := fun cfg =>
    ⟨fun hr => Classical.byContradiction fun hl =>
      hr.elim hl fun hz => h ((requestCkNat_eq_zero_iff (by omega)).mp hz.2), .inl⟩
  rw [hlong, hlong]

/-- CKSUM of any request but the zero request does the same under either value of SENTINEL_COMPAT. -/
theorem execCksum_withSentinel {t l : Byte} {s u : State} (b : Bool) (hne : ¬ (t = 0#8 ∧ l = 0#8))
    (h : execCksum t l s = .next u) : execCksum t l (s.withSentinel b) = .next (u.withSentinel b) := by
  by_cases hr : requestRefused s.cfg t l s.fcb
  · cases (execCksum_malformed hr).symm.trans h
    exact execCksum_malformed ((requestRefused_withSentinel b hne).mpr hr)
  · cases (execCksum_ok hr).symm.trans h
    exact execCksum_ok (mt (requestRefused_withSentinel b hne).mp hr)

/-- ENCODE of any request but the zero request does the same under either value of SENTINEL_COMPAT. -/
theorem execEncode_withSentinel {d k l : Byte} {s u : State} (b : Bool) (hne : ¬ (k = 0#8 ∧ l = 0#8))
    (h : execEncode d k l s = .next u) : execEncode d k l (s.withSentinel b) = .next (u.withSentinel b) := by
  by_cases hd : d = 0xA5#8 ∨ d = 0x5A#8
  · by_cases hr : requestRefused s.cfg k l s.fcb
    · cases (execEncode_malformed hd hr).symm.trans h
      exact execEncode_malformed hd ((requestRefused_withSentinel b hne).mpr hr)
    · cases (execEncode_ok hd hr).symm.trans h
      exact execEncode_ok hd (mt (requestRefused_withSentinel b hne).mp hr)
  · rw [not_or] at hd
    cases (execEncode_badArgument hd.1 hd.2).symm.trans h
    exact execEncode_badArgument hd.1 hd.2

/-- DEC_EOS does the same under either value of SENTINEL_COMPAT. -/
theorem execDecEos_withSentinel {s u : State} (b : Bool) (h : execDecEos s = .next u) :
    execDecEos (s.withSentinel b) = .next (u.withSentinel b) := by
  have hd : (s.withSentinel b).fcb.dstate = s.fcb.dstate := rfl
  unfold execDecEos at h ⊢
  rw [hd]
  cases hs : s.fcb.dstate <;> simp only [hs] at h ⊢ <;> cases h <;> rfl

/-- BAL_STR does the same under either value of SENTINEL_COMPAT. -/
theorem execBalStr_withSentinel {s u : State} (b : Bool) (h : execBalStr s = .next u) :
    execBalStr (s.withSentinel b) = .next (u.withSentinel b) := by
  have hf : (s.withSentinel b).fcb = s.fcb := rfl
  unfold execBalStr at h ⊢
  rw [hf]
  rcases rxBytes_cases 12 10 s.fcb s.fcb.balCells with ⟨-, hr⟩ | ⟨-, -, hr⟩ | ⟨-, -, hr⟩ <;>
    rw [hr] at h ⊢ <;> cases h <;> rfl

/-- TG_WAIT does the same under either value of SENTINEL_COMPAT. -/
theorem execTgWait_withSentinel {s u : State} (b : Bool) (h : execTgWait s = .next u) :
    execTgWait (s.withSentinel b) = .next (u.withSentinel b) := by
  by_cases he : s.elapsed.toNat < s.fcb.delay.toNat
  · cases (if_pos he).symm.trans h
    exact if_pos he
  · cases (if_neg he).symm.trans h
    exact if_neg he

/-- A command that goes through the shared answer does the same under either value of SENTINEL_COMPAT. -/
theorem answer_withSentinel {r : Except ErrCode Word} {s u : State} (b : Bool) (h : answer r s = .next u) :
    answer r (s.withSentinel b) = .next (u.withSentinel b) := by
  rcases answer_cases h with ⟨v, rfl, rfl⟩ | ⟨e, rfl, rfl⟩ <;> rfl

/-- Every command but the zero request's does the same under either value of SENTINEL_COMPAT (R127). -/
theorem exec_withSentinel {i : Instr} {s u : State} (b : Bool) (hc : i ≠ .cksum 0#8 0#8)
    (he : ∀ d, i ≠ .encode d 0#8 0#8) (h : exec i s = .next u) :
    exec i (s.withSentinel b) = .next (u.withSentinel b) := by
  cases i
  case cksum t l => exact execCksum_withSentinel b (fun hz => hc (by rw [hz.1, hz.2])) h
  case encode d k l => exact execEncode_withSentinel b (fun hz => he d (by rw [hz.1, hz.2])) h
  case decEos => exact execDecEos_withSentinel b h
  case balStr => exact execBalStr_withSentinel b h
  case tgWait => exact execTgWait_withSentinel b h
  case tgMark =>
    cases (execTgMark_eq s).symm.trans h
    exact execTgMark_eq (s.withSentinel b)
  case rdU8 | rdU16be | rdU16le | rdS16be | rdS16le | rdCell | tempDk | tempDc | balBit => exact answer_withSentinel b h
  all_goals
    cases h
    rfl

/-- The zero request's checksum is 0. -/
theorem zeroRequestCkNat (f : Fcb) : ckNat (0#8).toNat (0#8).toNat (f.txSum (0#8).toNat) = 0 :=
  (requestCkNat_eq_zero_iff (by decide)).mpr ⟨rfl, rfl⟩

/-- The zero request is refused exactly under SENTINEL_COMPAT (R127). -/
theorem requestRefused_zero_iff (cfg : Config) (f : Fcb) :
    requestRefused cfg 0#8 0#8 f ↔ cfg.sentinelCompat = true :=
  ⟨fun h => h.elim (fun hl => absurd hl (by decide)) And.left, fun h => .inr ⟨h, zeroRequestCkNat f⟩⟩

/-- Settles O14: only the zero request's checksum is 0, and nothing else reads SENTINEL_COMPAT. -/
theorem sentinelChangesOnlyTheZeroRequest : Obligations.SentinelChangesOnlyTheZeroRequest := by
  refine ⟨fun t l f hl => requestCkNat_eq_zero_iff hl, fun i s b hc he => ?_, fun s hs => ?_, fun s hs => ?_⟩
  · obtain ⟨g, c, h⟩ := exec_ownEffect i s
    exact ⟨_, h, exec_withSentinel b hc he h⟩
  · have hr := (requestRefused_zero_iff s.cfg s.fcb).mpr hs
    exact ⟨execCksum_malformed hr, fun d hd => execEncode_malformed hd hr⟩
  · have hr : ¬ requestRefused s.cfg 0#8 0#8 s.fcb := by simp [requestRefused_zero_iff, hs]
    have hz : BitVec.ofNat 32 (ckNat (0#8).toNat (0#8).toNat (s.fcb.txSum (0#8).toNat)) = 0#32 := by
      rw [zeroRequestCkNat]
    exact ⟨hz ▸ execCksum_ok hr, fun d hd => ⟨_, execEncode_ok hd hr, rfl, rfl, hz, rfl⟩⟩

end Sys2Proof.Machine
end

section
/-! The decoder's commands one at a time: DEC_START, DEC_EOS, and DEC_BYTE in each phase with the header check and the
trailer check in their order (R128–R134). -/

namespace Sys2Proof.Machine

/-! ### Outside the byte's phases -/

/-- The FCB DEC_START leaves: the decoder in the header phase at position 0, its record cleared (R128). -/
def Fcb.armed (f : Fcb) : Fcb :=
  { f with
    dstate := .hdr, dpos := 0#7, dcode := .ok, frameOk := false, cerr := .ok,
    hstart := 0#8, hcmd := 0#8, hrc := 0#8, hlen := 0#8, ck0 := 0#8, ck1 := 0#8, stopb := 0#8,
    ckrx := 0#16, ckcalc := 0#16 }

/-- DEC_START arms the decoder (R128). -/
theorem exec_decStart (s : State) : exec .decStart s = .next (s.withFcb s.fcb.armed) := rfl

/-- DEC_BYTE is the decoder's byte, and completes (R131). -/
theorem exec_decByte (b : Byte) (s : State) :
    exec (.decByte b) s = .next (s.withFcb (s.fcb.takeByte s.cfg.wireCksumOrder b).complete) := rfl

/-- Settles O16: DEC_START arms the decoder, and its registers are their cleared fields side by side; its word is of
format N. -/
theorem decodeStartArmsDecoder : Obligations.DecodeStartArmsDecoder := by
  refine ⟨fun s => ⟨_, exec_decStart s, ?_, ?_, ?_, ?_, rfl⟩, decodeOfEncodeIsIdentity .decStart,
    illegalWhenReserved_of_map (fmt := .n .decStart) rfl⟩
  · exact (by decide : 0#17 ++ 0#7 ++ 0#1 ++ 1#3 ++ 0#4 = 0x00000010#32)
  · exact (by decide : 0#8 ++ 0#8 ++ 0#8 ++ 0#8 = 0#32)
  · exact (by decide : 0#8 ++ 0#8 ++ 0#8 ++ 0#8 = 0#32)
  · exact (by decide : 0#16 ++ 0#16 = 0#32)

/-- Settles O17: outside a decode the byte is dropped; the word of DEC_BYTE is of format B. -/
theorem unexpectedByteSetsExtraBytes : Obligations.UnexpectedByteSetsExtraBytes := by
  refine ⟨fun b s hd => ?_, fun b => decode_wordB rfl, illegalWhenReserved_of_map (fmt := .b .decByte) rfl⟩
  rw [exec_decByte, takeByte_ignored _ b hd]
  rfl

/-- Settles O21: DEC_EOS by the phase it finds; its word is of format N. -/
theorem streamEndIsTransportShort : Obligations.StreamEndIsTransportShort := by
  refine ⟨fun s => ?_, decodeOfEncodeIsIdentity .decEos, illegalWhenReserved_of_map (fmt := .n .decEos) rfl⟩
  change execDecEos s = _
  unfold execDecEos
  cases hd : s.fcb.dstate <;> rfl

/-! ### The header phase (R129) -/

/-- The first header byte is the start byte's (R131). -/
theorem takeHeader_start {f : Fcb} (b : Byte) (hp : f.dpos = 0#7) :
    f.takeHeader b = { f with hstart := b, dpos := 1#7 } := by
  simp [Fcb.takeHeader, Fcb.putHeader, Fcb.bumpPos, hp]

/-- The second header byte is the echoed command (R131). -/
theorem takeHeader_cmd {f : Fcb} (b : Byte) (hp : f.dpos = 1#7) :
    f.takeHeader b = { f with hcmd := b, dpos := 2#7 } := by
  simp [Fcb.takeHeader, Fcb.putHeader, Fcb.bumpPos, hp]

/-- The third header byte is the returncode (R131). -/
theorem takeHeader_rc {f : Fcb} (b : Byte) (hp : f.dpos = 2#7) :
    f.takeHeader b = { f with hrc := b, dpos := 3#7 } := by
  simp [Fcb.takeHeader, Fcb.putHeader, Fcb.bumpPos, hp]

/-- The fourth header byte is the length, and the header check runs (R129, R131). -/
theorem takeHeader_len {f : Fcb} (b : Byte) (hp : f.dpos = 3#7) :
    f.takeHeader b = Fcb.hdrCheck { f with hlen := b, dpos := 4#7 } := by
  simp [Fcb.takeHeader, Fcb.putHeader, Fcb.bumpPos, hp]

/-- The header check's outcomes in their order, each with what it leaves (R129). -/
theorem hdrCheck_eq (f : Fcb) :
    f.hdrCheck =
      if f.hstart ≠ 0xDD#8 then { f with dstate := .done, dcode := .badStart }
      else if 64 < f.hlen.toNat then { f with dstate := .done, dcode := .oversizedLength }
      else if 0 < f.hlen.toNat ∧ f.destEn = false then { f with dstate := .done, dcode := .missingDest }
      else if f.hlen.toNat = 0 then { f with dstate := .tail }
      else { f with dstate := .pay } := rfl

/-- Settles O18: the byte goes to its place of RXHDR, and at the fourth the header check decides. -/
theorem headerBytesAndHeaderCheck : Obligations.HeaderBytesAndHeaderCheck := by
  intro b s hd
  rw [exec_decByte, takeByte_hdr _ b hd]
  refine ⟨fun hp => ?_, fun hp => ?_, fun hp => ?_, fun hp => ?_⟩
  · rw [takeHeader_start b hp]; rfl
  · rw [takeHeader_cmd b hp]; rfl
  · rw [takeHeader_rc b hp]; rfl
  · rw [takeHeader_len b hp, hdrCheck_eq]
    dsimp only
    split_ifs <;> rfl

/-! ### The payload phase (R131) -/

/-- The next position as a number. -/
theorem dpos_succ {d : BitVec 7} {n : Nat} (h : d.toNat + 1 = n) : d + 1#7 = BitVec.ofNat 7 n := by
  apply BitVec.eq_of_toNat_eq
  rw [← h]
  simp

/-- A payload byte leaves the payload phase at the last one (R131). -/
theorem takePayload_of_lt {f : Fcb} (b : Byte) (hd : f.dstate = .pay) (hp : f.dpos.toNat < 127) :
    f.takePayload b =
      { f with
        mem := f.mem.write (rxpayBase + (f.dpos.toNat - 4)) b, dpos := BitVec.ofNat 7 (f.dpos.toNat + 1),
        dstate := if f.dpos.toNat + 1 = 4 + f.hlen.toNat then .tail else .pay } := by
  have hn : (BitVec.ofNat 7 (f.dpos.toNat + 1)).toNat = f.dpos.toNat + 1 := by simp; omega
  rw [takePayload_eq, dpos_succ rfl, hn, hd]

/-- Settles O19: in the payload phase the position lies within the frame, and the byte is the one write. -/
theorem payloadBytesFillRxpay : Obligations.PayloadBytesFillRxpay := by
  intro b s hd ⟨_, _, hpay, _⟩ hm
  obtain ⟨hl, hlo, hhi⟩ := hpay hd
  have h : exec (.decByte b) s = _ := exec_decByte b s
  rw [takeByte_pay _ b hd, takePayload_of_lt b hd (by omega)] at h
  exact ⟨_, h, rfl, Memory.read_write_same hm _ b, fun a ha => Memory.read_write_other _ b ha⟩

/-! ### The trailer phase (R130) -/

/-- The first trailer byte is the checksum's first (R131). -/
theorem takeTrailer_ck0 {f : Fcb} (o : CksumOrder) (b : Byte) (hp : f.dpos.toNat = 4 + f.hlen.toNat) :
    f.takeTrailer o b = { f with ck0 := b, dpos := BitVec.ofNat 7 (5 + f.hlen.toNat) } := by
  rw [← dpos_succ (d := f.dpos) (by omega), Fcb.takeTrailer, if_pos hp]
  rfl

/-- The second trailer byte is the checksum's second (R131). -/
theorem takeTrailer_ck1 {f : Fcb} (o : CksumOrder) (b : Byte) (hp : f.dpos.toNat = 5 + f.hlen.toNat) :
    f.takeTrailer o b = { f with ck1 := b, dpos := BitVec.ofNat 7 (6 + f.hlen.toNat) } := by
  rw [← dpos_succ (d := f.dpos) (by omega), Fcb.takeTrailer, if_neg (by omega), if_pos hp]
  rfl

/-- The outcome of R130 on the two checksums as numbers, the stop byte and the returncode. -/
def trailerCode (received computed : Nat) (stop rc : Byte) : ErrCode :=
  if received ≠ computed then .checksumMismatch
  else if stop ≠ 0x77#8 then .badStop
  else if rc ≠ 0x00#8 then .deviceError
  else .ok

/-- A complete frame's outcome is 0 when every check of R130 passes. -/
theorem trailerCode_eq_ok_iff {received computed : Nat} {stop rc : Byte} :
    trailerCode received computed stop rc = .ok ↔ received = computed ∧ stop = 0x77#8 ∧ rc = 0x00#8 := by
  unfold trailerCode
  split_ifs <;> simp_all

/-- The received checksum as a number (R121). -/
def Fcb.receivedCk (o : CksumOrder) (f : Fcb) : Nat := wireNat o f.ck0 f.ck1

/-- The checksum of the received frame as a number (R120, R130). -/
def Fcb.computedCk (f : Fcb) : Nat := ckNat f.hrc.toNat f.hlen.toNat (f.rxSum f.hlen.toNat)

/-- Two wire bytes give a 16-bit number. -/
theorem wireNat_lt (o : CksumOrder) (c0 c1 : Byte) : wireNat o c0 c1 < 65536 := by
  rw [← toNat_assembleCk]
  exact BitVec.isLt _

/-- The two 16-bit checksums differ as their numbers do. -/
theorem receivedCk_ne_computedCk_iff (o : CksumOrder) (f : Fcb) :
    BitVec.ofNat 16 (f.receivedCk o) ≠ BitVec.ofNat 16 f.computedCk ↔ f.receivedCk o ≠ f.computedCk := by
  have hr : f.receivedCk o < 65536 := wireNat_lt _ _ _
  have hc : f.computedCk < 65536 := ckNat_lt _ _ _
  rw [ne_eq, ← BitVec.toNat_inj, BitVec.toNat_ofNat, BitVec.toNat_ofNat]
  omega

/-- The registers of a complete frame, with both checksums as numbers (R130). -/
theorem closeFrame_eq {f : Fcb} (o : CksumOrder) (b : Byte) (hp : f.dpos.toNat = 6 + f.hlen.toNat) :
    f.closeFrame o b =
      { f with
        stopb := b, dpos := BitVec.ofNat 7 (7 + f.hlen.toNat),
        ckrx := BitVec.ofNat 16 (f.receivedCk o), ckcalc := BitVec.ofNat 16 f.computedCk } := by
  have hrx : assembleCk o f.ck0 f.ck1 = BitVec.ofNat 16 (f.receivedCk o) := by
    rw [Fcb.receivedCk, ← toNat_assembleCk, BitVec.ofNat_toNat, BitVec.setWidth_eq]
  have hcalc : ck16 f.hrc f.hlen f.responsePayload = BitVec.ofNat 16 f.computedCk := by
    rw [ck16_eq_ofNat, byteSum_responsePayload]
    rfl
  rw [← dpos_succ (d := f.dpos) (by omega), ← hrx, ← hcalc]
  rfl

/-- A complete frame's outcome on the checksums' numbers (R130). -/
theorem closeFrame_trailerOutcome {f : Fcb} (o : CksumOrder) (b : Byte) (hp : f.dpos.toNat = 6 + f.hlen.toNat) :
    (f.closeFrame o b).trailerOutcome = trailerCode (f.receivedCk o) f.computedCk b f.hrc := by
  rw [closeFrame_eq o b hp]
  exact if_congr (receivedCk_ne_computedCk_iff o f) rfl rfl

/-- The third trailer byte is the stop byte, and the trailer check ends the frame (R130, R131). -/
theorem takeTrailer_stop {f : Fcb} (o : CksumOrder) (b : Byte) (hp : f.dpos.toNat = 6 + f.hlen.toNat)
    (hf : f.frameOk = false) :
    f.takeTrailer o b =
      { f with
        stopb := b, dpos := BitVec.ofNat 7 (7 + f.hlen.toNat), dstate := .done,
        ckrx := BitVec.ofNat 16 (f.receivedCk o), ckcalc := BitVec.ofNat 16 f.computedCk,
        dcode := trailerCode (f.receivedCk o) f.computedCk b f.hrc,
        frameOk := decide (f.receivedCk o = f.computedCk ∧ b = 0x77#8 ∧ f.hrc = 0x00#8) } := by
  have hend : f.takeTrailer o b = (f.closeFrame o b).finish (f.closeFrame o b).trailerOutcome :=
    (takeTrailer_cases o b f).elim (fun h => absurd hp h.1) And.right
  have hok : decide (f.receivedCk o = f.computedCk ∧ b = 0x77#8 ∧ f.hrc = 0x00#8) =
      if trailerCode (f.receivedCk o) f.computedCk b f.hrc = .ok then true else f.frameOk := by
    simp only [trailerCode_eq_ok_iff, hf, Bool.if_true_left, Bool.or_false]
  rw [hend, closeFrame_trailerOutcome o b hp, closeFrame_eq o b hp, hok]
  rfl

/-- Settles O20: each trailer byte in its place, and at the stop byte the trailer check decides. -/
theorem trailerCheckOrder : Obligations.TrailerCheckOrder := by
  intro b s hd ⟨_, _, _, _, _, hopen, _⟩
  obtain ⟨-, hf⟩ := hopen (by simp [hd])
  rw [exec_decByte, takeByte_tail _ b hd]
  refine ⟨fun hp => ?_, fun hp => ?_, fun hp => ?_⟩
  · rw [takeTrailer_ck0 _ b hp]; rfl
  · rw [takeTrailer_ck1 _ b hp]; rfl
  · rw [takeTrailer_stop _ b hp hf]; rfl

end Sys2Proof.Machine
end

section
/-! The decoder over a whole byte string: the state after each part of a frame, and the agreement with the verdict of
R284 on the string. -/

namespace Sys2Proof.Machine

/-! ### Feeding bytes -/

/-- The FCB after one DEC_BYTE a byte (R131). -/
def Fcb.takeBytes (o : CksumOrder) : List Byte → Fcb → Fcb
  | [], f => f
  | b :: bs, f => Fcb.takeBytes o bs (f.takeByte o b).complete

/-- Bytes given in two parts. -/
theorem takeBytes_append (o : CksumOrder) (xs ys : List Byte) (f : Fcb) :
    f.takeBytes o (xs ++ ys) = (f.takeBytes o xs).takeBytes o ys := by
  induction xs generalizing f with
  | nil => rfl
  | cons b xs ih => exact ih _

/-- A run of DEC_BYTE commands completes, and acts on its FCB alone. -/
theorem runCommands_decBytes (bs : List Byte) (s : State) :
    runCommands (bs.map Instr.decByte) s = .next (s.withFcb (s.fcb.takeBytes s.cfg.wireCksumOrder bs)) := by
  induction bs generalizing s with
  | nil => rfl
  | cons b bs ih => exact ih (s.withFcb (s.fcb.takeByte s.cfg.wireCksumOrder b).complete)

/-- Feeding a decoder is arming it and giving it the bytes. -/
theorem runCommands_feedCommands (bs : List Byte) (s : State) :
    runCommands (feedCommands bs) s = .next (s.withFcb (s.fcb.armed.takeBytes s.cfg.wireCksumOrder bs)) :=
  runCommands_decBytes bs (s.withFcb s.fcb.armed)

/-- Completing changes nothing where CERR is 0 already. -/
theorem complete_of_cerr {f : Fcb} (h : f.cerr = .ok) : f.complete = f := by
  rw [Fcb.complete, ← h]

/-- Bytes after the end of a frame only set EXTRA_BYTES (R131). -/
theorem takeBytes_done {f : Fcb} (o : CksumOrder) (bs : List Byte) (hd : f.dstate = .done) (hc : f.cerr = .ok) :
    f.takeBytes o bs = { f with extraBytes := f.extraBytes || !bs.isEmpty } := by
  induction bs generalizing f with
  | nil => simp [Fcb.takeBytes]
  | cons b bs ih =>
    rw [Fcb.takeBytes, takeByte_ignored o b (.inr hd)]
    refine (ih (f := ({ f with extraBytes := true } : Fcb).complete) hd rfl).trans ?_
    simp [Fcb.complete, hc]

/-! ### The header -/

/-- The FCB after the four header bytes, the header check still to run. -/
def Fcb.withHeader (b0 b1 b2 b3 : Byte) (f : Fcb) : Fcb :=
  { f with hstart := b0, hcmd := b1, hrc := b2, hlen := b3, dpos := 4#7 }

/-- Fewer than four header bytes go to their places of RXHDR, with no check yet (R131). -/
theorem takeBytes_short (o : CksumOrder) (f : Fcb) {bs : List Byte} (h : bs.length < 4) :
    f.armed.takeBytes o bs =
      { f.armed with
        hstart := bs.getD 0 0#8, hcmd := bs.getD 1 0#8, hrc := bs.getD 2 0#8, dpos := BitVec.ofNat 7 bs.length } := by
  match bs with
  | [] => rfl
  | [b0] =>
    rw [Fcb.takeBytes, takeByte_hdr o b0 rfl, takeHeader_start b0 rfl]
    rfl
  | [b0, b1] =>
    rw [Fcb.takeBytes, takeByte_hdr o b0 rfl, takeHeader_start b0 rfl, Fcb.takeBytes, takeByte_hdr o b1 rfl,
      takeHeader_cmd b1 rfl]
    rfl
  | [b0, b1, b2] =>
    rw [Fcb.takeBytes, takeByte_hdr o b0 rfl, takeHeader_start b0 rfl, Fcb.takeBytes, takeByte_hdr o b1 rfl,
      takeHeader_cmd b1 rfl, Fcb.takeBytes, takeByte_hdr o b2 rfl, takeHeader_rc b2 rfl]
    rfl

/-- The four header bytes fill RXHDR, and the header check runs (R129). -/
theorem takeBytes_header (o : CksumOrder) (b0 b1 b2 b3 : Byte) (f : Fcb) :
    f.armed.takeBytes o [b0, b1, b2, b3] = (f.armed.withHeader b0 b1 b2 b3).hdrCheck.complete := by
  have hsplit : [b0, b1, b2, b3] = [b0, b1, b2] ++ [b3] := rfl
  rw [hsplit, takeBytes_append, takeBytes_short o f (bs := [b0, b1, b2]) (by simp), Fcb.takeBytes,
    takeByte_hdr o b3 rfl, takeHeader_len b3 rfl]
  rfl

/-- A header that fails its check ends the frame with the check's error (R129). -/
theorem hdrCheck_of_fails {f : Fcb} {bs : List Byte} {e : ErrCode} (h0 : f.hstart = bs.getD 0 0#8)
    (h3 : f.hlen = bs.getD 3 0#8) (h : headerFails f.destEn bs = some e) :
    f.hdrCheck = { f with dstate := .done, dcode := e } ∧ e ≠ .ok ∧ e ≠ .deviceError := by
  rw [headerFails, ← h0, ← h3] at h
  rw [hdrCheck_eq]
  split_ifs at h ⊢ <;> cases h <;> exact ⟨rfl, by decide, by decide⟩

/-! ### The payload -/

/-- The FCB in a frame that has taken j payload bytes, with these buffers (R131). -/
def Fcb.atPayload (j : Nat) (m : Memory) (f : Fcb) : Fcb :=
  { f with
    mem := m, dpos := BitVec.ofNat 7 (4 + j), dstate := if j = f.hlen.toNat then .tail else .pay }

/-- The position of an FCB within the payload as a number. -/
theorem toNat_dpos_atPayload {f : Fcb} {j : Nat} (m : Memory) (hl : f.hlen.toNat ≤ 64) (hj : j ≤ f.hlen.toNat) :
    (f.atPayload j m).dpos.toNat = 4 + j := by
  simp only [Fcb.atPayload, BitVec.toNat_ofNat]
  omega

/-- A payload byte goes to its place of RXPAY (R131). -/
theorem takeByte_atPayload {f : Fcb} {j : Nat} (o : CksumOrder) (b : Byte) (m : Memory) (hl : f.hlen.toNat ≤ 64)
    (hj : j < f.hlen.toNat) (hc : f.cerr = .ok) :
    ((f.atPayload j m).takeByte o b).complete = f.atPayload (j + 1) (m.write (rxpayBase + j) b) := by
  have hp := toNat_dpos_atPayload m hl (Nat.le_of_lt hj)
  have hd : (f.atPayload j m).dstate = .pay := if_neg (by omega)
  have hlen : (f.atPayload j m).hlen = f.hlen := rfl
  rw [takeByte_pay o b hd, takePayload_of_lt b hd (by omega), hp, hlen, Nat.add_sub_cancel_left]
  simp only [Nat.add_assoc, Nat.add_left_cancel_iff]
  exact complete_of_cerr hc

/-- Payload bytes go to their places of RXPAY in order (R131). -/
theorem takeBytes_atPayload {f : Fcb} {j : Nat} (o : CksumOrder) (p : List Byte) (m : Memory) (hl : f.hlen.toNat ≤ 64)
    (hj : j + p.length ≤ f.hlen.toNat) (hc : f.cerr = .ok) :
    (f.atPayload j m).takeBytes o p = f.atPayload (j + p.length) (m.writeBytes (rxpayBase + j) p) := by
  induction p generalizing j m with
  | nil => rfl
  | cons b p ih =>
    rw [List.length_cons] at hj ⊢
    rw [Fcb.takeBytes, takeByte_atPayload o b m hl (by omega) hc, ih _ (by omega), Memory.writeBytes, Nat.add_assoc,
      Nat.add_assoc, Nat.add_comm 1]

/-- A header that passes its check announces at most 64 payload bytes, and the payload begins (R129). -/
theorem hdrCheck_of_passes {f : Fcb} {bs : List Byte} (h0 : f.hstart = bs.getD 0 0#8) (h3 : f.hlen = bs.getD 3 0#8)
    (hp : f.dpos = 4#7) (h : headerFails f.destEn bs = none) :
    f.hlen.toNat ≤ 64 ∧ f.hdrCheck = f.atPayload 0 f.mem := by
  rw [headerFails, ← h0, ← h3] at h
  have hpos : f.dpos = BitVec.ofNat 7 (4 + 0) := hp
  split_ifs at h with h1 h2 h3
  rw [hdrCheck_eq, if_neg h1, if_neg h2, if_neg h3, Fcb.atPayload, ← hpos]
  refine ⟨by omega, ?_⟩
  by_cases hz : f.hlen.toNat = 0
  · rw [if_pos hz, if_pos hz.symm]
  · rw [if_neg hz, if_neg (Ne.symm hz)]

/-! ### The trailer -/

/-- A byte of the trailer (R131). -/
theorem takeBytes_tail {f g : Fcb} {o : CksumOrder} {b : Byte} (hd : f.dstate = .tail) (hc : g.cerr = .ok)
    (h : f.takeTrailer o b = g) : f.takeBytes o [b] = g := by
  rw [Fcb.takeBytes, takeByte_tail o b hd, h]
  exact complete_of_cerr hc

/-- The trailer's first byte (R131). -/
theorem takeBytes_ck0 {f : Fcb} (o : CksumOrder) (c0 : Byte) (hd : f.dstate = .tail)
    (hp : f.dpos.toNat = 4 + f.hlen.toNat) (hc : f.cerr = .ok) :
    f.takeBytes o [c0] = { f with ck0 := c0, dpos := BitVec.ofNat 7 (5 + f.hlen.toNat) } :=
  takeBytes_tail hd hc (takeTrailer_ck0 o c0 hp)

/-- The trailer's first two bytes (R131). -/
theorem takeBytes_ck1 {f : Fcb} (o : CksumOrder) (c0 c1 : Byte) (hd : f.dstate = .tail)
    (hp : f.dpos.toNat = 4 + f.hlen.toNat) (hl : f.hlen.toNat ≤ 64) (hc : f.cerr = .ok) :
    f.takeBytes o [c0, c1] = { f with ck0 := c0, ck1 := c1, dpos := BitVec.ofNat 7 (6 + f.hlen.toNat) } := by
  have hp1 : (BitVec.ofNat 7 (5 + f.hlen.toNat)).toNat = 5 + f.hlen.toNat := by
    rw [BitVec.toNat_ofNat]
    omega
  rw [← List.singleton_append, takeBytes_append, takeBytes_ck0 o c0 hd hp hc]
  exact takeBytes_tail hd hc (takeTrailer_ck1 o c1 hp1)

/-- The trailer's three bytes end the frame with the outcome of R130. -/
theorem takeBytes_trailer {f : Fcb} (o : CksumOrder) (c0 c1 st : Byte) (hd : f.dstate = .tail)
    (hp : f.dpos.toNat = 4 + f.hlen.toNat) (hl : f.hlen.toNat ≤ 64) (hc : f.cerr = .ok) (hf : f.frameOk = false) :
    f.takeBytes o [c0, c1, st] =
      { f with
        ck0 := c0, ck1 := c1, stopb := st, dpos := BitVec.ofNat 7 (7 + f.hlen.toNat), dstate := .done,
        ckrx := BitVec.ofNat 16 (wireNat o c0 c1), ckcalc := BitVec.ofNat 16 f.computedCk,
        dcode := trailerCode (wireNat o c0 c1) f.computedCk st f.hrc,
        frameOk := decide (wireNat o c0 c1 = f.computedCk ∧ st = 0x77#8 ∧ f.hrc = 0x00#8) } := by
  have hp2 : (BitVec.ofNat 7 (6 + f.hlen.toNat)).toNat = 6 + f.hlen.toNat := by
    rw [BitVec.toNat_ofNat]
    omega
  have hsplit : [c0, c1, st] = [c0, c1] ++ [st] := rfl
  rw [hsplit, takeBytes_append, takeBytes_ck1 o c0 c1 hd hp hl hc]
  exact takeBytes_tail hd hc (takeTrailer_stop o st hp2 hf)

/-! ### The verdict on a byte string (R123, R284) -/

/-- What the FCB holds after a byte string given to an armed decoder: the string's verdict as its outcome, the
position, the payload, EXTRA_BYTES, and behind an outcome of 0 or DEVICE_ERROR equal checksums and the stop byte (R130,
R134, R137, R284). -/
structure Fcb.MeetsVerdict (o : CksumOrder) (destEn extra : Bool) (bs : List Byte) (f : Fcb) : Prop where
  done : f.dstate = .done ↔ (frameVerdict o destEn bs).isSome = true
  outcome : f.dcode = (frameVerdict o destEn bs).getD .ok
  frameOk : f.frameOk = true ↔ frameVerdict o destEn bs = some .ok
  position : f.dpos.toNat = bytesTaken destEn bs
  payload : ∀ k < f.hlen.toNat, 4 + k < bytesTaken destEn bs → f.rxpay k = bs.getD (4 + k) 0#8
  extraBytes : f.extraBytes = true ↔ extra = true ∨ bytesTaken destEn bs < bs.length
  cerr : f.cerr = .ok
  length : 4 ≤ bs.length → f.hlen = bs.getD 3 0#8
  checks : f.dstate = .done → f.dcode = .ok ∨ f.dcode = .deviceError → f.ckrx = f.ckcalc ∧ f.stopb = 0x77#8

/-- While the string decides no frame every byte is taken, and the decoder has no outcome. -/
theorem meetsVerdict_of_open {o : CksumOrder} {destEn extra : Bool} {bs : List Byte} {f : Fcb}
    (hv : frameVerdict o destEn bs = none) (ht : bytesTaken destEn bs = bs.length) (hd : f.dstate ≠ .done)
    (hcode : f.dcode = .ok) (hok : f.frameOk = false) (hpos : f.dpos.toNat = bs.length)
    (hpay : ∀ k < f.hlen.toNat, 4 + k < bs.length → f.rxpay k = bs.getD (4 + k) 0#8) (hx : f.extraBytes = extra)
    (hc : f.cerr = .ok) (hlen : 4 ≤ bs.length → f.hlen = bs.getD 3 0#8) : f.MeetsVerdict o destEn extra bs where
  done := by simp [hv, hd]
  outcome := by rw [hv]; exact hcode
  frameOk := by simp [hv, hok]
  position := hpos.trans ht.symm
  payload := ht ▸ hpay
  extraBytes := by simp [ht, hx]
  cerr := hc
  length := hlen
  checks h := absurd h hd

/-- Fewer than four bytes decide no frame. -/
theorem frameVerdict_of_short (o : CksumOrder) (destEn : Bool) {bs : List Byte} (h : bs.length < 4) :
    frameVerdict o destEn bs = none ∧ bytesTaken destEn bs = bs.length := by
  rw [frameVerdict, bytesTaken, if_pos h, if_pos h]
  exact ⟨rfl, rfl⟩

/-- A header that fails its check decides the frame after four bytes. -/
theorem frameVerdict_of_fails (o : CksumOrder) {destEn : Bool} {bs : List Byte} {e : ErrCode} (hn : 4 ≤ bs.length)
    (h : headerFails destEn bs = some e) :
    frameVerdict o destEn bs = some e ∧ bytesTaken destEn bs = 4 := by
  rw [frameVerdict, bytesTaken, if_neg (Nat.not_lt.mpr hn), if_neg (Nat.not_lt.mpr hn), h]
  exact ⟨rfl, rfl⟩

/-- A header that passes its check leaves the verdict to the trailer, when it is complete. -/
theorem frameVerdict_of_passes (o : CksumOrder) {destEn : Bool} {bs : List Byte} (hn : 4 ≤ bs.length)
    (h : headerFails destEn bs = none) :
    frameVerdict o destEn bs =
        (if bs.length < (bs.getD 3 0#8).toNat + 7 then none else some (trailerVerdict o (bs.getD 3 0#8).toNat bs)) ∧
      bytesTaken destEn bs = min bs.length ((bs.getD 3 0#8).toNat + 7) := by
  rw [frameVerdict, bytesTaken, if_neg (Nat.not_lt.mpr hn), if_neg (Nat.not_lt.mpr hn), h]
  exact ⟨rfl, rfl⟩

/-- The header bytes taken before the fourth leave the decoder in the header phase. -/
theorem meetsVerdict_short (o : CksumOrder) (f : Fcb) {bs : List Byte} (h : bs.length < 4) :
    (f.armed.takeBytes o bs).MeetsVerdict o f.destEn f.extraBytes bs := by
  obtain ⟨hv, ht⟩ := frameVerdict_of_short o f.destEn h
  rw [takeBytes_short o f h]
  have hpos : (BitVec.ofNat 7 bs.length).toNat = bs.length := by
    rw [BitVec.toNat_ofNat]
    omega
  exact meetsVerdict_of_open hv ht nofun rfl rfl hpos (fun k hk => absurd hk (Nat.not_lt_zero k)) rfl rfl
    fun hn => absurd h (Nat.not_lt.mpr hn)

/-- A failed header ends the frame, and the bytes after it are dropped. -/
theorem meetsVerdict_failedHeader (o : CksumOrder) (f : Fcb) {b0 b1 b2 b3 : Byte} {rest : List Byte} {e : ErrCode}
    (h : headerFails f.destEn (b0 :: b1 :: b2 :: b3 :: rest) = some e) :
    (f.armed.takeBytes o (b0 :: b1 :: b2 :: b3 :: rest)).MeetsVerdict o f.destEn f.extraBytes
      (b0 :: b1 :: b2 :: b3 :: rest) := by
  obtain ⟨hv, ht⟩ := frameVerdict_of_fails o (by simp) h
  obtain ⟨hend, hok, hdev⟩ := hdrCheck_of_fails (f := f.armed.withHeader b0 b1 b2 b3) rfl rfl h
  have hsplit : b0 :: b1 :: b2 :: b3 :: rest = [b0, b1, b2, b3] ++ rest := rfl
  rw [hsplit, takeBytes_append, takeBytes_header, hend, takeBytes_done o rest rfl rfl, ← hsplit]
  exact {
    done := by simp [hv, Fcb.complete]
    outcome := by rw [hv]; rfl
    frameOk := by simp [hv, hok, Fcb.complete, Fcb.withHeader, Fcb.armed]
    position := ht.symm
    payload := fun k _ hk => absurd hk (by omega)
    extraBytes := by
      rw [ht]
      cases rest <;> simp [Fcb.complete, Fcb.withHeader, Fcb.armed]
    cerr := rfl
    length := fun _ => rfl
    checks := fun _ hor => (hor.elim hok hdev).elim }

/-! ### A frame whose header passes -/

section PassedHeader

variable {o : CksumOrder} {f : Fcb} {b0 b1 b2 b3 : Byte} {p t : List Byte}

/-- The FCB after the header and some payload bytes of a frame. -/
def Fcb.inFrame (b0 b1 b2 b3 : Byte) (p : List Byte) (f : Fcb) : Fcb :=
  (f.armed.withHeader b0 b1 b2 b3).atPayload p.length (f.mem.writeBytes rxpayBase p)

/-- After a passed header and payload bytes the rest of the string is still to be taken. -/
theorem takeBytes_inFrame (h : headerFails f.destEn (b0 :: b1 :: b2 :: b3 :: (p ++ t)) = none)
    (hp : p.length ≤ b3.toNat) :
    b3.toNat ≤ 64 ∧
      f.armed.takeBytes o (b0 :: b1 :: b2 :: b3 :: (p ++ t)) = (f.inFrame b0 b1 b2 b3 p).takeBytes o t := by
  obtain ⟨hl, hcheck⟩ := hdrCheck_of_passes (f := f.armed.withHeader b0 b1 b2 b3) rfl rfl rfl h
  refine ⟨hl, ?_⟩
  have hsplit : b0 :: b1 :: b2 :: b3 :: (p ++ t) = [b0, b1, b2, b3] ++ (p ++ t) := rfl
  rw [hsplit, takeBytes_append, takeBytes_header, hcheck, complete_of_cerr rfl, takeBytes_append,
    takeBytes_atPayload o p _ hl (by rw [Nat.zero_add]; exact hp) rfl, Nat.zero_add]
  rfl

/-- A byte of the payload in the frame's string. -/
theorem getD_payload {k : Nat} (hk : k < p.length) :
    (b0 :: b1 :: b2 :: b3 :: (p ++ t)).getD (4 + k) 0#8 = p[k] := by
  rw [Nat.add_comm]
  simp [List.getElem?_append_left hk, hk]

/-- A byte after the payload in the frame's string. -/
theorem getD_trailer {n : Nat} (hp : p.length = n) (i : Nat) :
    (b0 :: b1 :: b2 :: b3 :: (p ++ t)).getD (i + 4 + n) 0#8 = t.getD i 0#8 := by
  have hi : i + 4 + n = (p.length + i) + 4 := by omega
  rw [hi]
  simp [List.getElem?_append_right]

/-- RXPAY holds the payload bytes taken. -/
theorem rxpay_of_mem {g : Fcb} (hm : f.memCanonical) (hg : g.mem = f.mem.writeBytes rxpayBase p) {k : Nat}
    (hk : k < p.length) : g.rxpay k = (b0 :: b1 :: b2 :: b3 :: (p ++ t)).getD (4 + k) 0#8 := by
  rw [getD_payload hk, Fcb.rxpay, hg]
  exact Memory.read_writeBytes hm _ _ hk

/-- The sum of a payload that has been taken whole (R120). -/
theorem rxSum_of_mem {g : Fcb} (hm : f.memCanonical) (hg : g.mem = f.mem.writeBytes rxpayBase p) {n : Nat}
    (hp : p.length = n) : g.rxSum n = byteSum p := by
  have hread : g.mem.readBytes rxpayBase n = p := by
    rw [hg, ← hp]
    exact Memory.readBytes_writeBytes hm _ _
  rw [← hread, Memory.readBytes_eq_map]
  rfl

/-- Two checksums agree when the frame's sum is 0 modulo 2^16 (R120). -/
theorem wireNat_eq_ckNat_iff (c0 c1 : Byte) (r n sum : Nat) :
    wireNat o c0 c1 = ckNat r n sum ↔ (r + n + sum + wireNat o c0 c1) % 65536 = 0 := by
  have := wireNat_lt o c0 c1
  rw [ckNat]
  omega

/-- The verdict on a complete frame is the decoder's outcome on its parts (R130). -/
theorem trailerVerdict_eq {n : Nat} {c0 c1 st : Byte} {r : List Byte} (hp : p.length = n) :
    trailerVerdict o n (b0 :: b1 :: b2 :: b3 :: (p ++ c0 :: c1 :: st :: r)) =
      trailerCode (wireNat o c0 c1) (ckNat b2.toNat n (byteSum p)) st b2 := by
  have h0 := getD_trailer (b0 := b0) (b1 := b1) (b2 := b2) (b3 := b3) (t := c0 :: c1 :: st :: r) hp 0
  have h1 := getD_trailer (b0 := b0) (b1 := b1) (b2 := b2) (b3 := b3) (t := c0 :: c1 :: st :: r) hp 1
  have h2 := getD_trailer (b0 := b0) (b1 := b1) (b2 := b2) (b3 := b3) (t := c0 :: c1 :: st :: r) hp 2
  have hdrop : ((b0 :: b1 :: b2 :: b3 :: (p ++ c0 :: c1 :: st :: r)).drop 4).take n = p := List.take_left' hp
  rw [trailerVerdict, hdrop, h0, h1, h2]
  exact if_congr (not_congr (wireNat_eq_ckNat_iff c0 c1 _ _ _).symm) rfl rfl

/-- A passed header with bytes up to the stop byte decides no frame yet. -/
theorem meetsVerdict_inFrame {u : Fcb} (hm : f.memCanonical)
    (h : headerFails f.destEn (b0 :: b1 :: b2 :: b3 :: (p ++ t)) = none) (hp : t = [] ∨ p.length = b3.toNat)
    (hn : p.length + t.length < b3.toNat + 3) (hu : u.mem = f.mem.writeBytes rxpayBase p) (hl : u.hlen = b3)
    (hd : u.dstate ≠ .done) (hcode : u.dcode = .ok) (hok : u.frameOk = false)
    (hpos : u.dpos.toNat = 4 + p.length + t.length) (hx : u.extraBytes = f.extraBytes) (hc : u.cerr = .ok) :
    u.MeetsVerdict o f.destEn f.extraBytes (b0 :: b1 :: b2 :: b3 :: (p ++ t)) := by
  have hsize : (b0 :: b1 :: b2 :: b3 :: (p ++ t)).length = 4 + p.length + t.length := by simp; omega
  have h3 : (b0 :: b1 :: b2 :: b3 :: (p ++ t)).getD 3 0#8 = b3 := rfl
  obtain ⟨hv, ht⟩ := frameVerdict_of_passes o (by omega) h
  rw [if_pos (by rw [hsize, h3]; omega)] at hv
  rw [Nat.min_eq_left (by rw [hsize, h3]; omega)] at ht
  refine meetsVerdict_of_open hv ht hd hcode hok (hpos.trans hsize.symm) (fun k hk hlt => ?_) hx hc fun _ => hl
  refine rxpay_of_mem hm hu ?_
  rw [hl] at hk
  rw [hsize] at hlt
  rcases hp with rfl | hp
  · simpa using hlt
  · omega

/-- An outcome of 0 or DEVICE_ERROR comes after the checksum and the stop byte have passed (R130, R284). -/
theorem trailerCode_passes {received computed : Nat} {st rc : Byte}
    (h : trailerCode received computed st rc = .ok ∨ trailerCode received computed st rc = .deviceError) :
    received = computed ∧ st = 0x77#8 := by
  unfold trailerCode at h
  split_ifs at h with hck hst <;> simp_all

/-- A complete frame is decided by its trailer, and the bytes after it are dropped. -/
theorem meetsVerdict_wholeFrame {c0 c1 st : Byte} {r : List Byte} (hm : f.memCanonical) (hp : p.length = b3.toNat)
    (h : headerFails f.destEn (b0 :: b1 :: b2 :: b3 :: (p ++ c0 :: c1 :: st :: r)) = none) :
    (f.armed.takeBytes o (b0 :: b1 :: b2 :: b3 :: (p ++ c0 :: c1 :: st :: r))).MeetsVerdict o f.destEn f.extraBytes
      (b0 :: b1 :: b2 :: b3 :: (p ++ c0 :: c1 :: st :: r)) := by
  obtain ⟨hl, htake⟩ := takeBytes_inFrame (o := o) h (Nat.le_of_eq hp)
  have hsize : (b0 :: b1 :: b2 :: b3 :: (p ++ c0 :: c1 :: st :: r)).length = b3.toNat + 7 + r.length := by
    simp
    omega
  have h3 : (b0 :: b1 :: b2 :: b3 :: (p ++ c0 :: c1 :: st :: r)).getD 3 0#8 = b3 := rfl
  obtain ⟨hv, ht⟩ := frameVerdict_of_passes o (by omega) h
  rw [if_neg (by rw [hsize, h3]; omega), h3, trailerVerdict_eq hp] at hv
  rw [Nat.min_eq_right (by rw [hsize, h3]; omega), h3] at ht
  have hck : (f.inFrame b0 b1 b2 b3 p).computedCk = ckNat b2.toNat b3.toNat (byteSum p) :=
    congrArg (ckNat b2.toNat b3.toNat) (rxSum_of_mem hm rfl hp)
  have hpos : (f.inFrame b0 b1 b2 b3 p).dpos.toNat = 4 + b3.toNat := by
    rw [← hp]
    exact toNat_dpos_atPayload (f := f.armed.withHeader b0 b1 b2 b3) _ hl (Nat.le_of_eq hp)
  have htail := takeBytes_trailer (f := f.inFrame b0 b1 b2 b3 p) o c0 c1 st (if_pos hp) hpos hl rfl rfl
  have hsplit : c0 :: c1 :: st :: r = [c0, c1, st] ++ r := rfl
  rw [htake, hsplit, takeBytes_append, htail, hck, takeBytes_done o r rfl rfl, ← hsplit]
  exact {
    done := by simp [hv]
    outcome := by rw [hv]; rfl
    frameOk := by
      rw [hv, Option.some_inj, trailerCode_eq_ok_iff]
      exact decide_eq_true_iff
    position := by
      rw [ht, BitVec.toNat_ofNat]
      change (7 + b3.toNat) % 2 ^ 7 = _
      omega
    payload := fun k hk _ => rxpay_of_mem hm rfl (hk.trans_eq hp.symm)
    extraBytes := by
      rw [ht, hsize]
      cases r <;> simp [Fcb.inFrame, Fcb.atPayload, Fcb.withHeader, Fcb.armed]
    cerr := rfl
    length := fun _ => rfl
    checks := fun _ hor => (trailerCode_passes hor).imp_left (congrArg (BitVec.ofNat 16)) }

/-- A passed header's frame is decided when its trailer is complete. -/
theorem meetsVerdict_passedHeader {rest : List Byte} (hm : f.memCanonical)
    (h : headerFails f.destEn (b0 :: b1 :: b2 :: b3 :: rest) = none) :
    (f.armed.takeBytes o (b0 :: b1 :: b2 :: b3 :: rest)).MeetsVerdict o f.destEn f.extraBytes
      (b0 :: b1 :: b2 :: b3 :: rest) := by
  obtain ⟨p, t, rfl, hp, hfull⟩ : ∃ p t, rest = p ++ t ∧ p.length ≤ b3.toNat ∧ (t = [] ∨ p.length = b3.toNat) := by
    refine ⟨rest.take b3.toNat, rest.drop b3.toNat, (List.take_append_drop _ _).symm, List.length_take_le _ _, ?_⟩
    rw [List.drop_eq_nil_iff, List.length_take]
    omega
  obtain ⟨hl, htake⟩ := takeBytes_inFrame (o := o) h hp
  have hpos : (f.inFrame b0 b1 b2 b3 p).dpos.toNat = 4 + p.length :=
    toNat_dpos_atPayload (f := f.armed.withHeader b0 b1 b2 b3) _ hl hp
  have hd : (f.inFrame b0 b1 b2 b3 p).dstate ≠ .done := by
    change (if p.length = b3.toNat then DState.tail else DState.pay) ≠ .done
    split <;> simp
  rw [htake]
  match t with
  | [] => exact meetsVerdict_inFrame hm h hfull (by simp; omega) rfl rfl hd rfl rfl hpos rfl rfl
  | [c0] =>
    have hp := hfull.resolve_left nofun
    rw [takeBytes_ck0 o c0 (if_pos hp) (hp ▸ hpos) rfl]
    refine meetsVerdict_inFrame hm h hfull (by simp; omega) rfl rfl hd rfl rfl ?_ rfl rfl
    rw [BitVec.toNat_ofNat]
    change (5 + b3.toNat) % 2 ^ 7 = 4 + p.length + 1
    omega
  | [c0, c1] =>
    have hp := hfull.resolve_left nofun
    rw [takeBytes_ck1 o c0 c1 (if_pos hp) (hp ▸ hpos) hl rfl]
    refine meetsVerdict_inFrame hm h hfull (by simp; omega) rfl rfl hd rfl rfl ?_ rfl rfl
    rw [BitVec.toNat_ofNat]
    change (6 + b3.toNat) % 2 ^ 7 = 4 + p.length + 2
    omega
  | c0 :: c1 :: st :: r =>
    rw [← htake]
    exact meetsVerdict_wholeFrame hm (hfull.resolve_left nofun) h

end PassedHeader

/-- The decoder agrees with the verdict on every byte string. -/
theorem takeBytes_meetsVerdict (o : CksumOrder) {f : Fcb} (hm : f.memCanonical) (bs : List Byte) :
    (f.armed.takeBytes o bs).MeetsVerdict o f.destEn f.extraBytes bs := by
  match bs with
  | [] | [_] | [_, _] | [_, _, _] => exact meetsVerdict_short o f (by simp)
  | b0 :: b1 :: b2 :: b3 :: rest =>
    cases h : headerFails f.destEn (b0 :: b1 :: b2 :: b3 :: rest) with
    | some e => exact meetsVerdict_failedHeader o f h
    | none => exact meetsVerdict_passedHeader hm h

/-- Settles O22: feeding is arming and taking the bytes, and the FCB then meets the string's verdict. -/
theorem decoderMeetsFrameVerdict : Obligations.DecoderMeetsFrameVerdict := by
  intro bs s hm
  have h := takeBytes_meetsVerdict s.cfg.wireCksumOrder hm bs
  exact ⟨_, runCommands_feedCommands bs s, h.done, h.outcome, h.frameOk, h.position, h.payload, h.extraBytes, h.cerr⟩

end Sys2Proof.Machine
end

section
/-! Whole frames built by the formula of R122 and R123: their verdict, the round trip through the decoder, and what one
changed byte does (R135, R136). -/

namespace Sys2Proof.Machine

/-! ### The verdict on a whole frame -/

/-- A 16-bit number goes on the wire as two bytes that stand for it (R121). -/
theorem wireBytes_of_lt (o : CksumOrder) {v : Nat} (hv : v < 65536) :
    ∃ c0 c1, wireBytes o v = [c0, c1] ∧ wireNat o c0 c1 = v := by
  have hhi : (BitVec.ofNat 8 (v / 256)).toNat = v / 256 := by rw [BitVec.toNat_ofNat]; omega
  have hlo : (BitVec.ofNat 8 v).toNat = v % 256 := BitVec.toNat_ofNat _ _
  cases o
  · exact ⟨_, _, rfl, by rw [wireNat, hhi, hlo]; omega⟩
  · exact ⟨_, _, rfl, by rw [wireNat, hhi, hlo]; omega⟩

/-- A frame as its header, its payload and a trailer whose checksum bytes stand for the checksum (R122, R123). -/
theorem frameBytes_eq (o : CksumOrder) (b1 b2 t l : Byte) (p : List Byte) :
    ∃ c0 c1, wireNat o c0 c1 = ckNat t.toNat l.toNat (byteSum p) ∧
      frameBytes o b1 b2 t l p = 0xDD#8 :: b1 :: b2 :: l :: (p ++ [c0, c1, 0x77#8]) := by
  obtain ⟨c0, c1, hw, hv⟩ := wireBytes_of_lt o (ckNat_lt t.toNat l.toNat (byteSum p))
  exact ⟨c0, c1, hv, by simp [frameBytes, hw]⟩

section WholeFrame

variable {o : CksumOrder} {b1 b2 l c0 c1 st : Byte} {p : List Byte}

/-- The header of a frame with the start byte and at most 64 payload bytes passes where there is a destination (R129). -/
theorem headerFails_wholeFrame {t : List Byte} (hl : l.toNat ≤ 64) :
    headerFails true (0xDD#8 :: b1 :: b2 :: l :: t) = none := by
  simpa [headerFails] using hl

/-- A frame with the start byte and as many payload bytes as its length says is decided by its trailer, and taken
whole. -/
theorem frameVerdict_wholeFrame (hp : p.length = l.toNat) (hl : l.toNat ≤ 64) :
    frameVerdict o true (0xDD#8 :: b1 :: b2 :: l :: (p ++ [c0, c1, st])) =
        some (trailerCode (wireNat o c0 c1) (ckNat b2.toNat l.toNat (byteSum p)) st b2) ∧
      bytesTaken true (0xDD#8 :: b1 :: b2 :: l :: (p ++ [c0, c1, st])) = l.toNat + 7 := by
  have hsize : (0xDD#8 :: b1 :: b2 :: l :: (p ++ [c0, c1, st])).length = l.toNat + 7 := by simp [hp]
  have h3 : (0xDD#8 :: b1 :: b2 :: l :: (p ++ [c0, c1, st])).getD 3 0#8 = l := rfl
  have hpass := headerFails_wholeFrame (b1 := b1) (b2 := b2) (t := p ++ [c0, c1, st]) hl
  obtain ⟨hv, ht⟩ := frameVerdict_of_passes o (by omega) hpass
  rw [hsize, h3, if_neg (Nat.lt_irrefl _), trailerVerdict_eq hp] at hv
  rw [hsize, h3, Nat.min_self] at ht
  exact ⟨hv, ht⟩

end WholeFrame

/-- A frame of the formula passes every check but the returncode's (R130, R135). -/
theorem frameVerdict_frameBytes (o : CksumOrder) (b1 rc l : Byte) {p : List Byte} (hp : p.length = l.toNat)
    (hl : l.toNat ≤ 64) :
    frameVerdict o true (frameBytes o b1 rc rc l p) = some (if rc = 0#8 then .ok else .deviceError) := by
  obtain ⟨c0, c1, hck, hf⟩ := frameBytes_eq o b1 rc rc l p
  rw [hf, (frameVerdict_wholeFrame hp hl).1, hck, trailerCode, if_neg (not_not.mpr rfl), if_neg (not_not.mpr rfl),
    ite_not]

/-! ### Round trip (R135) -/

/-- The payload of a frame of the formula lands in RXPAY (R131). -/
theorem readBytes_rxpay_frameBytes {o : CksumOrder} {b1 b2 t l : Byte} {p : List Byte} {extra : Bool} {u : Fcb}
    (hp : p.length = l.toNat) (hl : l.toNat ≤ 64) (h : u.MeetsVerdict o true extra (frameBytes o b1 b2 t l p)) :
    u.mem.readBytes 0x0C0 p.length = p := by
  obtain ⟨c0, c1, -, hf⟩ := frameBytes_eq o b1 b2 t l p
  rw [hf] at h
  have hlen : u.hlen = l := h.length (by simp)
  have htaken := (frameVerdict_wholeFrame (o := o) (b1 := b1) (b2 := b2) (c0 := c0) (c1 := c1) (st := 0x77#8) hp hl).2
  apply List.ext_getElem (Memory.length_readBytes _ _ _)
  intro k _ hk
  rw [Memory.getElem_readBytes, ← getD_payload hk]
  exact h.payload k (by rw [hlen]; omega) (by rw [htaken]; omega)

/-- A frame of the formula given to an armed decoder passes every check but the returncode's, and its payload is held
(R135). -/
theorem takeBytes_frameBytes (o : CksumOrder) {f : Fcb} (hm : f.memCanonical) (hdest : f.destEn = true) (b1 rc l : Byte)
    {p : List Byte} (hp : p.length = l.toNat) (hl : l.toNat ≤ 64) {u : Fcb}
    (hu : u = f.armed.takeBytes o (frameBytes o b1 rc rc l p)) :
    u.dstate = .done ∧ u.ckrx = u.ckcalc ∧ u.stopb = 0x77#8 ∧ u.dcode = (if rc = 0#8 then .ok else .deviceError) ∧
      (u.frameOk = true ↔ rc = 0#8) ∧ u.mem.readBytes 0x0C0 p.length = p := by
  have hv := frameVerdict_frameBytes o b1 rc l hp hl
  have h := takeBytes_meetsVerdict o hm (frameBytes o b1 rc rc l p)
  rw [hdest, ← hu] at h
  have hdone : u.dstate = .done := h.done.mpr (by rw [hv]; rfl)
  have hcode : u.dcode = if rc = 0#8 then .ok else .deviceError := by rw [h.outcome, hv, Option.getD_some]
  obtain ⟨hck, hstop⟩ := h.checks hdone (by rw [hcode]; split_ifs <;> simp)
  refine ⟨hdone, hck, hstop, hcode, ?_, readBytes_rxpay_frameBytes hp hl h⟩
  rw [h.frameOk, hv]
  split_ifs with hrc <;> simp [hrc]

/-- The bytes a successful ENCODE leaves in TXFRAME are the frame of its operands, of at most 30 payload bytes, and
the rest of what the decoder needs is as before (R126). -/
theorem encode_success {d k l : Byte} {s t : State} (hm : s.fcb.memCanonical) (h : exec (.encode d k l) s = .next t)
    (hok : t.fcb.txOk = true) :
    l.toNat ≤ 30 ∧ t.fcb.destEn = s.fcb.destEn ∧
      t.fcb.mem.readBytes 0x080 (l.toNat + 7) =
        frameBytes t.cfg.wireCksumOrder d k k l (s.fcb.requestPayload l) := by
  cases exec_effect h with
  | encoded d k l hd hl =>
    have hlen : (requestFrame s.cfg.wireCksumOrder d k l (s.fcb.requestPayload l)
        (ck16 k l (s.fcb.requestPayload l))).length = l.toNat + 7 := by
      rw [length_requestFrame, Fcb.requestPayload, Memory.length_readBytes]
    refine ⟨hl, rfl, ?_⟩
    rw [← hlen, ← requestFrame_eq_frameBytes]
    exact Memory.readBytes_writeBytes hm _ _
  | encodeBadArgument | encodeMalformed => exact absurd hok Bool.false_ne_true
  | answered _ _ hi => exact absurd hi Bool.false_ne_true
  | refused _ _ hi => exact absurd hi (by simp [answersOnly])

/-- Settles O23: both frames are of the formula, whose frames decode. -/
theorem encodedFramesDecode : Obligations.EncodedFramesDecode := by
  constructor
  · intro d k l s t hm hdest h hok
    obtain ⟨hl, hkeep, hframe⟩ := encode_success hm h hok
    have hp : (s.fcb.requestPayload l).length = l.toNat := Memory.length_readBytes _ _ _
    obtain ⟨hdone, hck, hstop, hcode, hgood, -⟩ := takeBytes_frameBytes t.cfg.wireCksumOrder
      (exec_keeps_memCanonical hm h) (hkeep.trans hdest) d k l hp (by omega) rfl
    rw [hframe]
    exact ⟨_, runCommands_feedCommands _ t, hdone, hck, hstop, hcode, hgood⟩
  · intro c rc p s hp hm hdest
    have hl : (BitVec.ofNat 8 p.length).toNat = p.length := by rw [BitVec.toNat_ofNat]; omega
    obtain ⟨hdone, -, -, hcode, -, hpay⟩ := takeBytes_frameBytes s.cfg.wireCksumOrder hm hdest c rc
      (BitVec.ofNat 8 p.length) hl.symm (by omega) rfl
    refine ⟨_, runCommands_feedCommands _ s, hdone, ?_, hpay⟩
    rw [State.withFcb_fcb, hcode]
    split_ifs with hrc <;> simp [hrc]

/-! ### One changed byte (R136) -/

/-- Changing one byte changes the sum by the difference. -/
theorem byteSum_set {p : List Byte} {k : Nat} (x : Byte) (hk : k < p.length) :
    byteSum (p.set k x) + p[k].toNat = byteSum p + x.toNat := by
  have hcons : ∀ (b : Byte) (q : List Byte), byteSum (b :: q) = b.toNat + byteSum q := fun _ _ => rfl
  induction p generalizing k with
  | nil => simp at hk
  | cons b p ih =>
    cases k with
    | zero =>
      simp only [List.set_cons_zero, List.getElem_cons_zero, hcons]
      omega
    | succ k =>
      have := ih (k := k) (by simpa using hk)
      simp only [List.set_cons_succ, List.getElem_cons_succ, hcons]
      omega

/-- Two wire bytes are determined by the number they stand for (R121). -/
theorem wireNat_inj {o : CksumOrder} {a b c d : Byte} (h : wireNat o a b = wireNat o c d) : a = c ∧ b = d := by
  rw [← BitVec.toNat_inj, ← BitVec.toNat_inj]
  cases o <;> rw [wireNat, wireNat] at h <;> omega

/-- A frame whose received checksum is not the computed one is a mismatch (R130). -/
theorem trailerCode_of_ne {received computed : Nat} {st rc : Byte} (h : received ≠ computed) :
    trailerCode received computed st rc = .checksumMismatch := if_pos h

/-- Changing a byte of the payload, the checksum or the stop byte of a good frame, by the byte's place after the header
(R136). -/
theorem frameVerdict_set_afterHeader (o : CksumOrder) {b1 l c0 c1 x : Byte} {p : List Byte} {i : Nat}
    (hp : p.length = l.toNat) (hl : l.toNat ≤ 64) (hck : wireNat o c0 c1 = ckNat (0#8).toNat l.toNat (byteSum p))
    (hi : i < p.length + 3) (hx : (p ++ [c0, c1, 0x77#8]).getD i 0#8 ≠ x) :
    frameVerdict o true (0xDD#8 :: b1 :: 0#8 :: l :: (p ++ [c0, c1, 0x77#8]).set i x) =
      some (if i = p.length + 2 then .badStop else .checksumMismatch) := by
  by_cases hpay : i < p.length
  · have hne : p[i] ≠ x := by simpa [List.getElem?_append_left hpay, hpay] using hx
    rw [← BitVec.toNat_inj.ne] at hne
    have hsum := byteSum_set x hpay
    rw [List.set_append_left _ _ hpay, (frameVerdict_wholeFrame (by rw [List.length_set, hp]) hl).1, hck,
      if_neg (by omega), trailerCode_of_ne]
    simp only [ckNat, BitVec.toNat_ofNat]
    omega
  · obtain ⟨j, rfl⟩ : ∃ j, i = p.length + j := ⟨i - p.length, by omega⟩
    rw [List.set_append_right _ _ (by omega), Nat.add_sub_cancel_left]
    have hx' : [c0, c1, 0x77#8].getD j 0#8 ≠ x := by simpa [List.getElem?_append_right] using hx
    have hj : j = 0 ∨ j = 1 ∨ j = 2 := by omega
    rcases hj with rfl | rfl | rfl
    · have hne : c0 ≠ x := hx'
      change frameVerdict o true (0xDD#8 :: b1 :: 0#8 :: l :: (p ++ [x, c1, 0x77#8])) = _
      rw [(frameVerdict_wholeFrame hp hl).1, ← hck, if_neg (by omega),
        trailerCode_of_ne fun h => hne (wireNat_inj h).1.symm]
    · have hne : c1 ≠ x := hx'
      change frameVerdict o true (0xDD#8 :: b1 :: 0#8 :: l :: (p ++ [c0, x, 0x77#8])) = _
      rw [(frameVerdict_wholeFrame hp hl).1, ← hck, if_neg (by omega),
        trailerCode_of_ne fun h => hne (wireNat_inj h).2.symm]
    · have hne : x ≠ 0x77#8 := Ne.symm hx'
      change frameVerdict o true (0xDD#8 :: b1 :: 0#8 :: l :: (p ++ [c0, c1, x])) = _
      rw [(frameVerdict_wholeFrame hp hl).1, hck, if_pos rfl, trailerCode, if_neg (not_not.mpr rfl), if_pos hne]

/-- Changing any byte of a good frame but its length byte: the verdict by the byte's place (R136). -/
theorem frameVerdict_set (o : CksumOrder) {c l x : Byte} {p : List Byte} {j : Nat} (hp : p.length = l.toNat)
    (hl : l.toNat ≤ 64) (hj : j < (frameBytes o c 0#8 0#8 l p).length)
    (hx : (frameBytes o c 0#8 0#8 l p).getD j 0#8 ≠ x) (h3 : j ≠ 3) :
    frameVerdict o true ((frameBytes o c 0#8 0#8 l p).set j x) =
      some (if j = 0 then .badStart else if j = 1 then .ok else if j = 6 + p.length then .badStop
        else .checksumMismatch) := by
  rw [length_frameBytes] at hj
  obtain ⟨c0, c1, hck, hf⟩ := frameBytes_eq o c 0#8 0#8 l p
  rw [hf] at hx ⊢
  match j with
  | 0 =>
    have hfail : headerFails true (x :: c :: 0#8 :: l :: (p ++ [c0, c1, 0x77#8])) = some .badStart :=
      if_pos (Ne.symm hx)
    exact (frameVerdict_of_fails o (by simp) hfail).1
  | 1 =>
    change frameVerdict o true (0xDD#8 :: x :: 0#8 :: l :: (p ++ [c0, c1, 0x77#8])) = _
    rw [(frameVerdict_wholeFrame hp hl).1, trailerCode_eq_ok_iff.mpr ⟨hck, rfl, rfl⟩]
    rfl
  | 2 =>
    change frameVerdict o true (0xDD#8 :: c :: x :: l :: (p ++ [c0, c1, 0x77#8])) = _
    have hne : x.toNat ≠ 0 := fun h => hx (BitVec.eq_of_toNat_eq h).symm
    rw [(frameVerdict_wholeFrame hp hl).1, hck, trailerCode_of_ne, if_neg (by decide), if_neg (by decide),
      if_neg (by omega)]
    simp only [ckNat, BitVec.toNat_ofNat]
    omega
  | 3 => exact absurd rfl h3
  | i + 4 =>
    have hset := frameVerdict_set_afterHeader o (b1 := c) (x := x) (i := i) hp hl hck (by omega) (by simpa using hx)
    have hstop : (i + 4 = 6 + p.length) = (i = p.length + 2) := propext (by omega)
    simpa [hstop] using hset

/-- Settles O24: the verdict on the changed frame is the decoder's outcome. -/
theorem singleCorruptionIsDetected : Obligations.SingleCorruptionIsDetected := by
  intro c x p j s good hp hm hdest hj hx h3
  have hl : (BitVec.ofNat 8 p.length).toNat = p.length := by rw [BitVec.toNat_ofNat]; omega
  have hv := frameVerdict_set s.cfg.wireCksumOrder hl.symm (by omega) hj hx h3
  have h := takeBytes_meetsVerdict s.cfg.wireCksumOrder hm (good.set j x)
  rw [hdest] at h
  refine ⟨_, runCommands_feedCommands _ s, h.done.mpr (by rw [hv]; rfl), h.frameOk.trans ?_, ?_⟩
  · rw [hv]
    split_ifs <;> simp_all
  · exact h.outcome.trans (by rw [hv, Option.getD_some])

end Sys2Proof.Machine
end

section
/-! The payload readers: the guarded read's three ends, the value of each field as a number, the results of the reader
commands, and that a reader looks at no byte past the frame's payload. -/

namespace Sys2Proof.Machine

/-! ### The guarded read (R170) -/

section Gate

variable {α : Type} {off w : Nat} {f : Fcb} {v : α}

/-- Without a good frame the guarded read is NO_FRAME. -/
theorem rxBytes_of_noFrame (hf : f.frameOk = false) : rxBytes off w f v = .error .noFrame := if_pos hf

/-- Past the payload of a good frame the guarded read is EXTRACT_RANGE. -/
theorem rxBytes_of_past (hok : f.frameOk = true) (hl : f.hlen.toNat < off + w) :
    rxBytes off w f v = .error .extractRange := by simp [rxBytes, hok, hl]

/-- Inside the payload of a good frame the guarded read gives the value. -/
theorem rxBytes_of_inside (hok : f.frameOk = true) (hl : off + w ≤ f.hlen.toNat) : rxBytes off w f v = .ok v := by
  simp [rxBytes, hok, hl]

end Gate

/-- A read that fails with an error ends its command with that error. -/
theorem answer_widen_of_error {α : Type} {g : α → Word} {r : Except ErrCode α} {e : ErrCode} {s : State}
    (hr : r = .error e) : answer (widen g r) s = .next (s.raised e) := by rw [hr, widen_error, answer_error]

/-- A read that gives a value ends its command with that value in RESULT. -/
theorem answer_widen_of_ok {α : Type} {g : α → Word} {r : Except ErrCode α} {v : α} {s : State} (hr : r = .ok v) :
    answer (widen g r) s = .next (s.answered (g v)) := by rw [hr, widen_ok, answer_ok]

/-- The three ends of a command that answers a guarded read whose widened value is x. -/
theorem answer_rxBytes {α : Type} {g : α → Word} {v : α} {x : Word} (off w : Nat) (s : State) (hx : g v = x) :
    answer (widen g (rxBytes off w s.fcb v)) s = .next
      (if s.fcb.frameOk = false then s.raised .noFrame
       else if s.fcb.hlen.toNat < off + w then s.raised .extractRange
       else s.answered x) := by
  unfold rxBytes
  split_ifs
  · rfl
  · rfl
  · rw [widen_ok, answer_ok, hx]

/-- An index of a cell reads the cell's field (R178). -/
theorem rxCell_of_lt {i : Nat} (f : Fcb) (h : i < 32) : rxCell i f = rxU16be (2 * i) f := if_neg (Nat.not_le.mpr h)

/-- The index of a sensor goes through the read of the sensor count (R215). -/
theorem rxTemp_of_countError {j : Nat} {f : Fcb} {e : ErrCode} (h : j < 8) (hr : rxU8 22 f = .error e) :
    rxTemp j f = .error e := by
  have hj : ¬ Config.maxNtcs ≤ j := Nat.not_le.mpr h
  rw [rxTemp, if_neg hj, hr]

/-- The number of a cell reads its bit of the balance field (R219). -/
theorem rxBalance_of_cell {c : Nat} (f : Fcb) (h : 1 ≤ c ∧ c ≤ 32) :
    rxBalance c f = rxBytes 12 4 f (zext32 (BitVec.ofBool (f.bal32.getLsbD (c - 1)))) :=
  if_neg (not_or.mpr ⟨Nat.not_lt.mpr h.1, Nat.not_lt.mpr h.2⟩)

/-- BAL_STR without its bytes raises the read's error (R220). -/
theorem execBalStr_of_error {s : State} {e : ErrCode} (hr : rxBytes 12 10 s.fcb s.fcb.balCells = .error e) :
    execBalStr s = .next (s.raised e) := by
  rw [execBalStr, hr]
  rfl

/-- BAL_STR with its bytes writes the string and answers the number of its characters (R220). -/
theorem execBalStr_of_ok {s : State} {n : Nat} (hr : rxBytes 12 10 s.fcb s.fcb.balCells = .ok n) :
    execBalStr s = .next { s with fcb := { s.fcb with
      mem := s.fcb.mem.writeBytes outstrBase s.fcb.balString, result := BitVec.ofNat 32 n, cerr := .ok } } := by
  rw [execBalStr, hr]
  rfl

/-- Where the guarded read of the bytes a reader asks for first fails, the reader raises its error. -/
theorem exec_of_gateError {i : Instr} {off w : Nat} {s : State} {e : ErrCode} (hi : payloadRange i = some (off, w))
    (he : ∀ {α : Type} (v : α), rxBytes off w s.fcb v = .error e) : exec i s = .next (s.raised e) := by
  cases i
  case rdU8 | rdU16be | rdU16le | rdS16be | rdS16le =>
    cases hi
    exact answer_widen_of_error (he _)
  case rdCell n =>
    obtain ⟨hn, hrange⟩ := Option.ite_none_right_eq_some.mp hi
    cases hrange
    exact answer_widen_of_error ((rxCell_of_lt s.fcb hn).trans (he _))
  case tempDk n | tempDc n =>
    obtain ⟨hn, hrange⟩ := Option.ite_none_right_eq_some.mp hi
    cases hrange
    exact answer_widen_of_error (rxTemp_of_countError hn (he _))
  case balBit n =>
    obtain ⟨hn, hrange⟩ := Option.ite_none_right_eq_some.mp hi
    cases hrange
    exact (congrArg (answer · s) ((rxBalance_of_cell s.fcb hn).trans (he _))).trans (answer_error e s)
  case balStr =>
    cases hi
    exact execBalStr_of_error (he _)
  all_goals cases hi

/-! ### The bytes a reader depends on (R170) -/

/-- Two instances with the same frame: FRAME_OK, HLEN and the payload bytes of the frame agree. -/
structure Fcb.SameFrame (f g : Fcb) : Prop where
  frameOk : g.frameOk = f.frameOk
  hlen : g.hlen = f.hlen
  rxpay : ∀ k < f.hlen.toNat, g.rxpay k = f.rxpay k

section SameFrame

variable {f g : Fcb} (h : f.SameFrame g)
include h

/-- The guarded read depends on its value inside the payload only. -/
theorem rxBytes_congr {α : Type} {off w : Nat} {v v' : α} (hv : off + w ≤ f.hlen.toNat → v' = v) :
    rxBytes off w g v' = rxBytes off w f v := by
  unfold rxBytes
  rw [h.frameOk, h.hlen]
  split_ifs with hok hl
  · rfl
  · rfl
  · rw [hv (Nat.le_of_not_lt hl)]

/-- The byte read depends on the frame alone. -/
theorem rxU8_congr (off : Nat) : rxU8 off g = rxU8 off f :=
  rxBytes_congr h fun hl => h.rxpay off (by omega)

/-- The big-endian read depends on the frame alone. -/
theorem rxU16be_congr (off : Nat) : rxU16be off g = rxU16be off f :=
  rxBytes_congr h fun hl => by rw [h.rxpay off (by omega), h.rxpay (off + 1) (by omega)]

/-- The little-endian read depends on the frame alone. -/
theorem rxU16le_congr (off : Nat) : rxU16le off g = rxU16le off f :=
  rxBytes_congr h fun hl => by rw [h.rxpay off (by omega), h.rxpay (off + 1) (by omega)]

/-- The cell read depends on the frame alone. -/
theorem rxCell_congr (i : Nat) : rxCell i g = rxCell i f := by rw [rxCell, rxCell, rxU16be_congr h]

/-- The temperature read depends on the frame alone. -/
theorem rxTemp_congr (j : Nat) : rxTemp j g = rxTemp j f := by
  rw [rxTemp, rxTemp, rxU8_congr h, rxU16be_congr h]

/-- The balance field depends on the frame alone. -/
theorem bal32_congr (hl : 16 ≤ f.hlen.toNat) : g.bal32 = f.bal32 := by
  rw [Fcb.bal32, Fcb.bal32, h.rxpay 12 (by omega), h.rxpay 13 (by omega), h.rxpay 14 (by omega),
    h.rxpay 15 (by omega)]

/-- The balance read depends on the frame alone. -/
theorem rxBalance_congr (c : Nat) : rxBalance c g = rxBalance c f := by
  unfold rxBalance
  rw [rxBytes_congr h fun hl => by rw [bal32_congr h hl]]

/-- The guarded number of balance characters depends on the frame alone. -/
theorem rxBalCells_congr : rxBytes 12 10 g g.balCells = rxBytes 12 10 f f.balCells :=
  rxBytes_congr h fun hl => by rw [Fcb.balCells, Fcb.balCells, h.rxpay 21 (by omega)]

end SameFrame

/-- On both memories the command ends with the same RESULT and the same CERR. -/
def AnswersAlike (i : Instr) (s : State) (m : Memory) : Prop :=
  ∃ t u, exec i s = .next t ∧ exec i { s with fcb := { s.fcb with mem := m } } = .next u ∧
    u.fcb.result = t.fcb.result ∧ u.fcb.cerr = t.fcb.cerr

/-- A command that answers the same on both memories ends alike on them. -/
theorem answersAlike_of_answer {i : Instr} {s : State} {m : Memory} {r r' : Except ErrCode Word}
    (hs : exec i s = answer r s)
    (hm : exec i { s with fcb := { s.fcb with mem := m } } = answer r' { s with fcb := { s.fcb with mem := m } })
    (hr : r' = r) : AnswersAlike i s m := by
  subst hr
  cases r' with
  | ok v => exact ⟨_, _, hs, hm, rfl, rfl⟩
  | error e => exact ⟨_, _, hs, hm, rfl, rfl⟩

/-- BAL_STR ends alike on memories with the same frame. -/
theorem answersAlike_balStr {s : State} {m : Memory} (h : s.fcb.SameFrame { s.fcb with mem := m }) :
    AnswersAlike .balStr s m := by
  have hr := rxBalCells_congr h
  cases hread : rxBytes 12 10 s.fcb s.fcb.balCells with
  | ok n => exact ⟨_, _, execBalStr_of_ok hread, execBalStr_of_ok (hr.trans hread), rfl, rfl⟩
  | error e => exact ⟨_, _, execBalStr_of_error hread, execBalStr_of_error (hr.trans hread), rfl, rfl⟩

/-- A reader ends alike on memories with the same frame. -/
theorem answersAlike_of_sameFrame {i : Instr} {s : State} {m : Memory} (hi : (payloadRange i).isSome = true)
    (h : s.fcb.SameFrame { s.fcb with mem := m }) : AnswersAlike i s m := by
  cases i
  case rdU8 n => exact answersAlike_of_answer rfl rfl (congrArg _ (rxU8_congr h n.toNat))
  case rdU16be n | rdS16be n => exact answersAlike_of_answer rfl rfl (congrArg _ (rxU16be_congr h n.toNat))
  case rdU16le n | rdS16le n => exact answersAlike_of_answer rfl rfl (congrArg _ (rxU16le_congr h n.toNat))
  case rdCell n => exact answersAlike_of_answer rfl rfl (congrArg _ (rxCell_congr h n.toNat))
  case tempDk n | tempDc n => exact answersAlike_of_answer rfl rfl (congrArg _ (rxTemp_congr h n.toNat))
  case balBit n => exact answersAlike_of_answer rfl rfl (rxBalance_congr h n.toNat)
  case balStr => exact answersAlike_balStr h
  all_goals cases hi

/-- Settles O25: a reader raises the error of its guarded read, and every read is of bytes of the frame. -/
theorem readersAreGatedByTheFrame : Obligations.ReadersAreGatedByTheFrame := by
  refine ⟨fun i off w s hi => ⟨fun hf => ?_, fun hok hl => ?_⟩, fun off f hok => ⟨fun hl => ?_, fun hl => ?_⟩,
    fun i s m hi hm => answersAlike_of_sameFrame hi ⟨rfl, rfl, hm⟩⟩
  · exact exec_of_gateError hi fun _ => rxBytes_of_noFrame hf
  · exact exec_of_gateError hi fun _ => rxBytes_of_past hok hl
  · exact rxBytes_of_inside hok hl
  · exact ⟨rxBytes_of_inside hok hl, rxBytes_of_inside hok hl⟩

/-! ### Unsigned and signed fields (R172–R176) -/

/-- The big-endian field as the word of its number. -/
theorem zext32_be16_rxpay (off : Nat) (f : Fcb) :
    zext32 (be16 (f.rxpay off) (f.rxpay (off + 1))) = BitVec.ofNat 32 (f.beNat off) := by
  rw [zext32_eq_ofNat _ (by decide), toNat_be16]
  rfl

/-- The little-endian field as the word of its number. -/
theorem zext32_le16_rxpay (off : Nat) (f : Fcb) :
    zext32 (le16 (f.rxpay off) (f.rxpay (off + 1))) = BitVec.ofNat 32 (f.leNat off) := by
  rw [zext32_eq_ofNat _ (by decide), toNat_le16]
  rfl

/-- s16 is the two's-complement reading of a 16-bit value (R7). -/
theorem s16_toNat (v : Half) : s16 v.toNat = v.toInt := by
  rw [s16, BitVec.toInt_eq_toNat_cond]
  split_ifs <;> omega

/-- sext_32 is the 32-bit pattern of the signed reading (R7). -/
theorem sext32_eq_ofInt (v : Half) : sext32 v = BitVec.ofInt 32 (s16 v.toNat) := by
  rw [s16_toNat]
  rfl

/-- The big-endian field's sign extension as the word of its signed number. -/
theorem sext32_be16_rxpay (off : Nat) (f : Fcb) :
    sext32 (be16 (f.rxpay off) (f.rxpay (off + 1))) = BitVec.ofInt 32 (s16 (f.beNat off)) := by
  rw [sext32_eq_ofInt, toNat_be16]
  rfl

/-- The little-endian field's sign extension as the word of its signed number. -/
theorem sext32_le16_rxpay (off : Nat) (f : Fcb) :
    sext32 (le16 (f.rxpay off) (f.rxpay (off + 1))) = BitVec.ofInt 32 (s16 (f.leNat off)) := by
  rw [sext32_eq_ofInt, toNat_le16]
  rfl

/-- Settles O26: each unsigned reader answers a guarded read; their words are of format O. -/
theorem unsignedReadersResult : Obligations.UnsignedReadersResult :=
  ⟨fun n s => answer_rxBytes n.toNat 1 s (zext32_eq_ofNat _ (by decide)),
    fun n s => answer_rxBytes n.toNat 2 s (zext32_be16_rxpay n.toNat s.fcb),
    fun n s => answer_rxBytes n.toNat 2 s (zext32_le16_rxpay n.toNat s.fcb),
    fun _ => ⟨decode_wordB rfl, decode_wordB rfl, decode_wordB rfl⟩,
    illegalWhenReserved_of_map (fmt := .b .rdU8) rfl, illegalWhenReserved_of_map (fmt := .b .rdU16be) rfl,
    illegalWhenReserved_of_map (fmt := .b .rdU16le) rfl⟩

/-- Settles O27: each signed reader answers a guarded read; their words are of format O. -/
theorem signedReadersResult : Obligations.SignedReadersResult :=
  ⟨fun n s => answer_rxBytes n.toNat 2 s (sext32_be16_rxpay n.toNat s.fcb),
    fun n s => answer_rxBytes n.toNat 2 s (sext32_le16_rxpay n.toNat s.fcb),
    fun _ => ⟨decode_wordB rfl, decode_wordB rfl⟩,
    illegalWhenReserved_of_map (fmt := .b .rdS16be) rfl, illegalWhenReserved_of_map (fmt := .b .rdS16le) rfl⟩

/-! ### The byte swap (R177, R182, R183) -/

/-- The low half of a zero-extended 16-bit value is the value. -/
@[simp] theorem setWidth_zext32 (v : Half) : (zext32 v).setWidth 16 = v :=
  BitVec.setWidth_setWidth_of_le v (by decide)

/-- Exchanging the bytes twice gives the value back (R182). -/
@[simp] theorem bswap16_bswap16 (v : Half) : bswap16 (bswap16 v) = v := by
  apply BitVec.eq_of_toNat_eq
  rw [toNat_bswap16, toNat_bswap16]
  have := v.isLt
  omega

/-- Exchanging the bytes of a big-endian field reads it little-endian (R183). -/
@[simp] theorem bswap16_be16 (b0 b1 : Byte) : bswap16 (be16 b0 b1) = le16 b0 b1 := by
  apply BitVec.eq_of_toNat_eq
  rw [toNat_bswap16, toNat_be16, toNat_le16]
  omega

/-- BSWAP16 answers the exchanged bytes (R177). -/
theorem exec_bswap16 (v : Half) (s : State) : exec (.bswap16 v) s = .next (s.answered (zext32 (bswap16 v))) := rfl

/-- BSWAP16 of the low half of a 16-bit answer answers its exchanged bytes. -/
theorem exec_bswap16_answered (v : Half) (s : State) :
    exec (.bswap16 ((s.answered (zext32 v)).fcb.result.setWidth 16)) (s.answered (zext32 v)) =
      .next ((s.answered (zext32 v)).answered (zext32 (bswap16 v))) := by
  rw [exec_bswap16]
  simp only [State.answered, setWidth_zext32]

/-- Settles O28: BSWAP16's number, and the bytes exchanged twice; its word is of format H. -/
theorem byteSwapIsInvolution : Obligations.ByteSwapIsInvolution := by
  refine ⟨fun v s => ?_, fun v s => ⟨_, _, exec_bswap16 v s, exec_bswap16_answered (bswap16 v) s, ?_⟩,
    fun _ => decode_wordH rfl, illegalWhenReserved_of_map (fmt := .h .bswap16) rfl⟩
  · rw [exec_bswap16, zext32_eq_ofNat _ (by decide), toNat_bswap16]
  · rw [bswap16_bswap16]
    exact toNat_zext32 v (by decide)

/-- Settles O29: the three readers answer the same two bytes, extended or exchanged. -/
theorem readersAgree : Obligations.ReadersAgree := by
  intro n s hok hl
  refine ⟨_, _, _, _, answer_widen_of_ok (rxBytes_of_inside hok hl), answer_widen_of_ok (rxBytes_of_inside hok hl),
    answer_widen_of_ok (rxBytes_of_inside hok hl), exec_bswap16_answered _ s, ?_, ?_, ?_⟩
  · exact congrArg zext32 (bswap16_be16 _ _)
  · exact congrArg sext32 (setWidth_zext32 _).symm
  · exact (toNat_zext32 _ (by decide)).trans_lt (BitVec.isLt _)

/-! ### The cell reader (R178) -/

/-- Settles O30: the index is refused first, and RD_CELL answers a guarded read otherwise; its word is of format O. -/
theorem cellReaderResult : Obligations.CellReaderResult := by
  refine ⟨fun n s => ?_, fun _ => decode_wordB rfl, illegalWhenReserved_of_map (fmt := .b .rdCell) rfl⟩
  by_cases hn : 32 ≤ n.toNat
  · rw [if_pos hn]
    exact answer_widen_of_error (if_pos hn)
  · rw [if_neg hn, ← answer_rxBytes (2 * n.toNat) 2 s (zext32_be16_rxpay (2 * n.toNat) s.fcb)]
    exact congrArg (fun r => answer (widen zext32 r) s) (rxCell_of_lt s.fcb (Nat.lt_of_not_le hn))

end Sys2Proof.Machine
end

section
/-! The status decode helpers: the fault bits, the date, the temperatures, the balance field and the mosfet payload as
numbers, and the results of their commands. -/

namespace Sys2Proof.Machine

/-! ### Fault bits (R201–R213) -/

/-- A fault bit as the word of its number. -/
theorem faultBit_eq_ofNat (j : Nat) (v : Half) : faultBit j v = BitVec.ofNat 32 (v.toNat / 2 ^ j % 2) := by
  rw [faultBit, zext32_eq_ofNat _ (by decide), toNat_ofBool_getLsbD]

/-- The command tests bit j at the opcode 0x30 + j. -/
def TestsFaultBit (j : Nat) (mk : Half → Instr) : Prop :=
  (∀ (v : Half) (s : State), exec (mk v) s = .next (s.answered (BitVec.ofNat 32 (v.toNat / 2 ^ j % 2)))) ∧
  (∀ v : Half, decode (BitVec.ofNat 8 (0x30 + j) ++ 0#8 ++ v) = .ok (mk v)) ∧
  IllegalWhenReserved (BitVec.ofNat 8 (0x30 + j)) 0x00FF0000#32

/-- A command that answers the fault bit at its opcode of format H tests that bit. -/
theorem testsFaultBit_of_exec {j : Nat} {mk : Half → Instr}
    (hexec : ∀ v s, exec (mk v) s = .next (s.answered (faultBit j v)))
    (hmap : opcodeMap (BitVec.ofNat 8 (0x30 + j)) = some (.h mk)) : TestsFaultBit j mk :=
  ⟨fun v s => faultBit_eq_ofNat j v ▸ hexec v s, fun _ => decode_wordH hmap, illegalWhenReserved_of_map hmap⟩

/-- Settles O31: each of the seven commands answers its fault bit at its opcode. -/
theorem faultTestsOfBits0To6 : Obligations.FaultTestsOfBits0To6 := by
  intro p hp
  fin_cases hp <;> exact testsFaultBit_of_exec (fun _ _ => rfl) rfl

/-- Settles O32: each of the six commands answers its fault bit at its opcode. -/
theorem faultTestsOfBits7To12 : Obligations.FaultTestsOfBits7To12 := by
  intro p hp
  fin_cases hp <;> exact testsFaultBit_of_exec (fun _ _ => rfl) rfl

/-! ### The date (R214) -/

/-- A shifted word above a value that fits in the bits it left is their sum. -/
theorem toNat_shiftLeft_or {a b : Word} {k : Nat} (ha : a.toNat * 2 ^ k < 2 ^ 32) (hb : b.toNat < 2 ^ k) :
    (a <<< k ||| b).toNat = a.toNat * 2 ^ k + b.toNat := by
  rw [BitVec.toNat_or, BitVec.toNat_shiftLeft, Nat.shiftLeft_eq, Nat.mod_eq_of_lt ha, Nat.mul_comm,
    Nat.two_pow_add_eq_or_of_lt hb]

/-- The three fields of a packed date lie side by side in the answer (R214). -/
theorem toNat_packedDate (v : Half) :
    (packedDate v).toNat = (v.toNat / 512 + 2000) * 65536 + v.toNat / 32 % 16 * 256 + v.toNat % 32 := by
  have hv := v.isLt
  have hyear : (zext32 (v >>> 9) + Config.yearBase).toNat = v.toNat / 512 + 2000 := by
    rw [BitVec.toNat_add, toNat_zext32 _ (by decide), BitVec.toNat_ushiftRight, Nat.shiftRight_eq_div_pow]
    exact Nat.mod_eq_of_lt (by change _ + 2000 < _; omega)
  have hmonth : (zext32 (v >>> 5) &&& 0xF#32).toNat = v.toNat / 32 % 16 := by
    rw [BitVec.toNat_and, toNat_zext32 _ (by decide), BitVec.toNat_ushiftRight, Nat.shiftRight_eq_div_pow]
    exact Nat.and_two_pow_sub_one_eq_mod _ 4
  have hday : (zext32 v &&& 0x1F#32).toNat = v.toNat % 32 := by
    rw [BitVec.toNat_and, toNat_zext32 _ (by decide)]
    exact Nat.and_two_pow_sub_one_eq_mod _ 5
  have hmonthDay : ((zext32 (v >>> 5) &&& 0xF#32) <<< 8 ||| (zext32 v &&& 0x1F#32)).toNat =
      v.toNat / 32 % 16 * 256 + v.toNat % 32 := by
    rw [toNat_shiftLeft_or, hmonth, hday] <;> omega
  rw [packedDate, BitVec.or_assoc, toNat_shiftLeft_or, hyear, hmonthDay] <;> omega

/-- Settles O33: DATE answers the packed date's number; its word is of format H. -/
theorem dateResult : Obligations.DateResult :=
  ⟨fun v s => congrArg (fun w => Host.Outcome.next (s.answered w)) (eq_ofNat_of_toNat (toNat_packedDate v)),
    fun _ => decode_wordH rfl, illegalWhenReserved_of_map (fmt := .h .date) rfl⟩

/-! ### Temperatures (R215–R217) -/

/-- A sensor within the index range is read where the sensor count of the payload covers it (R215). -/
theorem rxTemp_of_count {j : Nat} {f : Fcb} {nt : Byte} (h : j < 8) (hr : rxU8 22 f = .ok nt) :
    rxTemp j f = if nt.toNat ≤ j then .error .extractRange else rxU16be (23 + 2 * j) f := by
  have hj : ¬ Config.maxNtcs ≤ j := Nat.not_le.mpr h
  rw [rxTemp, if_neg hj, hr]

/-- The ends of a command that answers a sensor's temperature, with the checks in R215's order. -/
theorem answer_rxTemp {g : Half → Word} {x : Word} (j : Nat) (s : State)
    (hx : g (be16 (s.fcb.rxpay (23 + 2 * j)) (s.fcb.rxpay (23 + 2 * j + 1))) = x) :
    answer (widen g (rxTemp j s.fcb)) s = .next
      (if 8 ≤ j then s.raised .badArgument
       else if s.fcb.frameOk = false then s.raised .noFrame
       else if s.fcb.hlen.toNat < 23 then s.raised .extractRange
       else if (s.fcb.rxpay 22).toNat ≤ j then s.raised .extractRange
       else if s.fcb.hlen.toNat < 25 + 2 * j then s.raised .extractRange
       else s.answered x) := by
  by_cases hj : 8 ≤ j
  · rw [if_pos hj]
    exact answer_widen_of_error (if_pos hj)
  have hj' : j < 8 := Nat.lt_of_not_le hj
  rw [if_neg hj]
  rcases rxBytes_cases 22 1 s.fcb (s.fcb.rxpay 22) with ⟨hok, hr⟩ | ⟨hok, hl, hr⟩ | ⟨hok, hl, hr⟩
  · rw [if_pos hok]
    exact answer_widen_of_error (rxTemp_of_countError hj' hr)
  · rw [if_neg (by simp [hok]), if_pos hl]
    exact answer_widen_of_error (rxTemp_of_countError hj' hr)
  · have hread := rxTemp_of_count hj' hr
    rw [if_neg (by simp [hok]), if_neg (Nat.not_lt.mpr hl)]
    by_cases hcount : (s.fcb.rxpay 22).toNat ≤ j
    · rw [if_pos hcount] at hread ⊢
      exact answer_widen_of_error hread
    · have hend : 25 + 2 * j = 23 + 2 * j + 2 := by omega
      rw [if_neg hcount] at hread ⊢
      rw [hread, rxU16be, answer_rxBytes _ _ _ hx, if_neg (by simp [hok]), hend]

/-- The deci-celsius value of a 16-bit deci-kelvin value as a signed number (R216, R217). -/
theorem toInt_deciCelsius (dk : Half) : (deciCelsius dk).toInt = (dk.toNat : Int) - 2731 := by
  have hdk := dk.isLt
  have hzext := toNat_zext32 dk (by decide)
  have hoffset : Config.tempOffset.toInt = 2731 := rfl
  rw [deciCelsius, BitVec.toInt_sub, BitVec.toInt_eq_toNat_of_lt (by omega), hzext, hoffset]
  exact Int.bmod_eq_of_le (by omega) (by omega)

/-- The deci-celsius value of a field of RXPAY as the 32-bit pattern of its number. -/
theorem deciCelsius_be16_rxpay (off : Nat) (f : Fcb) :
    deciCelsius (be16 (f.rxpay off) (f.rxpay (off + 1))) = BitVec.ofInt 32 ((f.beNat off : Int) - 2731) := by
  rw [← BitVec.ofInt_toInt (x := deciCelsius _), toInt_deciCelsius, toNat_be16]
  rfl

/-- Settles O34: TEMP_DK answers the sensor's field; its word is of format O. -/
theorem temperatureKelvinResult : Obligations.TemperatureKelvinResult :=
  ⟨fun n s => answer_rxTemp n.toNat s (zext32_be16_rxpay (23 + 2 * n.toNat) s.fcb), fun _ => decode_wordB rfl,
    illegalWhenReserved_of_map (fmt := .b .tempDk) rfl⟩

/-- Settles O35: TEMP_DC answers the sensor's field and K2DC its operand, each less the offset; their words are of
formats O and H. -/
theorem temperatureCelsiusResult : Obligations.TemperatureCelsiusResult :=
  ⟨fun n s => answer_rxTemp n.toNat s (deciCelsius_be16_rxpay (23 + 2 * n.toNat) s.fcb),
    fun v _ => ⟨_, rfl, rfl, toInt_deciCelsius v⟩,
    fun _ => decode_wordB rfl, illegalWhenReserved_of_map (fmt := .b .tempDc) rfl,
    fun _ => decode_wordH rfl, illegalWhenReserved_of_map (fmt := .h .k2dc) rfl⟩

/-! ### The balance field (R218–R220) -/

/-- The balance field as a number (R218). -/
theorem toNat_bal32 (f : Fcb) : f.bal32.toNat = f.beNat 14 * 65536 + f.beNat 12 := by
  rw [Fcb.bal32, toNat_append_eq, toNat_be16, toNat_be16]
  rfl

/-- A bit of the balance field. -/
theorem getLsbD_bal32 (f : Fcb) (k : Nat) :
    f.bal32.getLsbD k = decide ((f.beNat 14 * 65536 + f.beNat 12) / 2 ^ k % 2 = 1) := by
  rw [getLsbD_eq_decide, toNat_bal32]

/-- A bit of the balance field as the word of its number. -/
theorem zext32_bal32_bit (f : Fcb) (k : Nat) :
    zext32 (BitVec.ofBool (f.bal32.getLsbD k)) =
      BitVec.ofNat 32 ((f.beNat 14 * 65536 + f.beNat 12) / 2 ^ k % 2) := by
  rw [zext32_eq_ofNat _ (by decide), toNat_ofBool_getLsbD, toNat_bal32]

/-- Widening goes through the guarded read to its value. -/
theorem widen_rxBytes {α : Type} (g : α → Word) (off w : Nat) (f : Fcb) (v : α) :
    widen g (rxBytes off w f v) = rxBytes off w f (g v) := by
  unfold rxBytes
  split_ifs
  · rfl
  · rfl
  · rfl

/-- Settles O36: the cell number is refused first, and BAL_BIT answers a guarded read otherwise; its word is of
format O. -/
theorem balanceBitResult : Obligations.BalanceBitResult := by
  refine ⟨fun n s => ?_, fun _ => decode_wordB rfl, illegalWhenReserved_of_map (fmt := .b .balBit) rfl⟩
  by_cases hn : n.toNat < 1 ∨ 32 < n.toNat
  · rw [if_pos hn]
    exact (congrArg (answer · s) (if_pos hn)).trans (answer_error .badArgument s)
  · have hread : rxBalance n.toNat s.fcb =
        widen zext32 (rxBytes 12 4 s.fcb (BitVec.ofBool (s.fcb.bal32.getLsbD (n.toNat - 1)))) := by
      rw [widen_rxBytes]
      exact if_neg hn
    rw [if_neg hn, ← answer_rxBytes 12 4 s (zext32_bal32_bit s.fcb (n.toNat - 1)), ← hread]
    rfl

/-- The balance string is its characters and the terminator (R220). -/
theorem length_balString (f : Fcb) : f.balString.length = f.balCells + 1 := by simp [Fcb.balString]

/-- A character of the balance string by its cell's bit (R220). -/
theorem getElem_balString {f : Fcb} {k : Nat} (hk : k < f.balCells) (hlen : k < f.balString.length) :
    f.balString[k] = if (f.beNat 14 * 65536 + f.beNat 12) / 2 ^ k % 2 = 1 then 0x31#8 else 0x30#8 := by
  simp [Fcb.balString, hk, getLsbD_bal32]

/-- The terminator of the balance string (R220). -/
theorem getElem_balString_last {f : Fcb} (hlen : f.balCells < f.balString.length) :
    f.balString[f.balCells] = 0x00#8 := by simp [Fcb.balString]

/-- Settles O37: BAL_STR's three ends, and the bytes of the string read back from OUTSTR; its word is of format N. -/
theorem balanceStringResult : Obligations.BalanceStringResult := by
  refine ⟨fun s hf => execBalStr_of_error (rxBytes_of_noFrame hf),
    fun s hok hl => execBalStr_of_error (rxBytes_of_past hok hl), fun s hok hl hm => ?_,
    decode_wordN (op := 0x45#8) rfl, illegalWhenReserved_of_map (fmt := .n .balStr) rfl⟩
  have hlen := length_balString s.fcb
  refine ⟨_, execBalStr_of_ok (rxBytes_of_inside hok hl), rfl, fun k hk => ?_, ?_, fun a ha => ?_⟩
  · have hk' : k < s.fcb.balString.length := hlen ▸ Nat.lt_succ_of_lt hk
    exact (Memory.read_writeBytes hm outstrBase _ hk').trans (getElem_balString hk hk')
  · have hn : s.fcb.balCells < s.fcb.balString.length := hlen ▸ Nat.lt_succ_self _
    exact (Memory.read_writeBytes hm outstrBase _ hn).trans (getElem_balString_last hn)
  · exact Memory.read_writeBytes_other _ _ _ (by rwa [hlen])

/-! ### The mosfet payload (R221) -/

/-- The wire form of the mosfet flags is the complement of their two bits (R221). -/
theorem toNat_mosfetWire (r : Byte) : (mosfetWire r).toNat = 3 - r.toNat % 4 := by
  have hr := r.isLt
  have hmask : (255 - r.toNat) &&& 3 = (255 - r.toNat) % 4 := Nat.and_two_pow_sub_one_eq_mod _ 2
  rw [mosfetWire, BitVec.toNat_and, BitVec.toNat_not]
  exact hmask.trans (by omega)

/-- MOS_PAY writes the payload's two bytes and answers the second (R221). -/
theorem exec_mosPay (r : Byte) (s : State) :
    exec (.mosPay r) s = .next { s with fcb := { s.fcb with
      mem := s.fcb.mem.writeBytes txpayBase [0x00#8, mosfetWire r], result := BitVec.ofNat 32 (3 - r.toNat % 4),
      cerr := .ok } } := by
  rw [← toNat_mosfetWire, ← zext32_eq_ofNat _ (by decide)]
  rfl

/-- Settles O38: MOS_PAY's two bytes read back from TXPAY; its word is of format B. -/
theorem mosfetPayloadResult : Obligations.MosfetPayloadResult := by
  refine ⟨fun r s hm => ⟨_, exec_mosPay r s, rfl, ?_, ?_, fun a h0 h1 => ?_⟩, fun _ => decode_wordB rfl,
    illegalWhenReserved_of_map (fmt := .b .mosPay) rfl⟩
  · exact Memory.read_writeBytes hm txpayBase [0x00#8, mosfetWire r] (k := 0) (by simp)
  · rw [← toNat_mosfetWire]
    exact congrArg BitVec.toNat (Memory.read_writeBytes hm txpayBase [0x00#8, mosfetWire r] (k := 1) (by simp))
  · refine Memory.read_writeBytes_other _ _ _ ?_
    simp only [txpayBase, List.length_cons, List.length_nil]
    omega

end Sys2Proof.Machine
end

section
/-! The timing guard: ticks in a run, the wait a TG_WAIT starts, and the timestamp a TG_MARK records. -/

namespace Sys2Proof.Machine

/-! ### Several ticks (R250) -/

/-- The last of several ticks. -/
theorem ticks_succ (k : Nat) (s : State) : ticks (k + 1) s = (ticks k s).tick := rfl

/-- NOW counts the ticks modulo 2^32 (R34, R250). -/
theorem ticks_now (k : Nat) (s : State) : (ticks k s).now = s.now + BitVec.ofNat 32 k := by
  induction k with
  | zero => exact (BitVec.add_zero s.now).symm
  | succ k ih => rw [ticks_succ, State.tick_now, ih, BitVec.add_assoc, BitVec.ofNat_add]

/-- Ticks leave the shared timestamp alone (R36). -/
theorem ticks_shcell (k : Nat) (s : State) : (ticks k s).shcell = s.shcell := by
  induction k with
  | zero => rfl
  | succ k ih => rw [ticks_succ, State.tick_shcell, ih]

/-! ### A wait over its ticks (R254) -/

/-- An instance with no wait in progress takes no notice of a tick (R250). -/
theorem tick_idle {f : Fcb} (hb : f.busy = false) : f.tick = f := if_neg (by simp [hb])

/-- The tick before which one tick of a wait remains ends the wait (R254). -/
theorem tick_last {f : Fcb} (hb : f.busy = true) (hw : f.waitrem.toNat = 1) :
    f.tick = { f with waitrem := 0#32, busy := false, cerr := .ok } := by
  have hr : f.waitrem - 1#32 = 0#32 := by bv_omega
  rw [Fcb.tick, if_pos hb, Fcb.waitTick, hr]
  rfl

/-- A tick before which several ticks of a wait remain counts one of them down (R254). -/
theorem tick_running {f : Fcb} (hb : f.busy = true) (hw : 1 < f.waitrem.toNat) :
    f.tick = { f with waitrem := BitVec.ofNat 32 (f.waitrem.toNat - 1) } := by
  have hr : f.waitrem - 1#32 = BitVec.ofNat 32 (f.waitrem.toNat - 1) := by bv_omega
  have hne : f.waitrem - 1#32 ≠ 0#32 := by bv_omega
  rw [Fcb.tick, if_pos hb, ← hr]
  exact if_neg hne

/-- Ticks leave an instance with no wait in progress as it was (R250). -/
theorem ticks_idle {s : State} (hb : s.fcb.busy = false) (k : Nat) : (ticks k s).fcb = s.fcb := by
  induction k with
  | zero => rfl
  | succ k ih => rw [ticks_succ, State.tick_fcb, ih, tick_idle hb]

/-- What remains of a wait is a number of ticks below 2^32. -/
theorem toNat_remaining (w : Word) (k : Nat) : (BitVec.ofNat 32 (w.toNat - k)).toNat = w.toNat - k :=
  Nat.mod_eq_of_lt (Nat.lt_of_le_of_lt (Nat.sub_le _ _) w.isLt)

/-- Fewer ticks than a wait has left only count it down (R254). -/
theorem ticks_running {s : State} (hb : s.fcb.busy = true) {k : Nat} (hk : k < s.fcb.waitrem.toNat) :
    (ticks k s).fcb = { s.fcb with waitrem := BitVec.ofNat 32 (s.fcb.waitrem.toNat - k) } := by
  induction k with
  | zero => rw [Nat.sub_zero, BitVec.ofNat_toNat, BitVec.setWidth_eq]; rfl
  | succ k ih =>
    have hleft := toNat_remaining s.fcb.waitrem k
    rw [ticks_succ, State.tick_fcb, ih (by omega), tick_running]
    · rw [hleft, Nat.sub_sub]
    · exact hb
    · rw [hleft]
      omega

/-- As many ticks as a wait has left end it (R254). -/
theorem ticks_ended {s : State} (hb : s.fcb.busy = true) (hw : 0 < s.fcb.waitrem.toNat) :
    (ticks s.fcb.waitrem.toNat s).fcb = { s.fcb with waitrem := 0#32, busy := false, cerr := .ok } := by
  obtain ⟨k, hk⟩ := Nat.exists_eq_succ_of_ne_zero hw.ne'
  have hleft := toNat_remaining s.fcb.waitrem k
  rw [hk, ticks_succ, State.tick_fcb, ticks_running hb (by omega), tick_last]
  · exact hb
  · rw [hleft]
    omega

/-! ### The tick as a step, and the other steps (R250, R292) -/

/-- A list against its image under a function, place by place. -/
theorem snd_eq_of_mem_zip_map {α β : Type} {f : α → β} {l : List α} {p : α × β} (h : p ∈ l.zip (l.map f)) :
    p.1 ∈ l ∧ p.2 = f p.1 := by
  rw [← List.map_prod_left_eq_zip] at h
  obtain ⟨x, hx, rfl⟩ := List.mem_map.mp h
  exact ⟨hx, rfl⟩

/-- With reset not asserted a tick is a step (R250, R292). -/
theorem step_tick (s : State) (rest : List Event) (hr : s.resetLine = false) :
    step { s with agenda := .tick :: rest } = .next ({ s with agenda := rest } : State).tick := by
  change runEvent .tick { s with agenda := rest } = _
  rw [runEvent, hr]
  rfl

/-- An instance over a tick, its wait given as a number of ticks (R254). -/
theorem tick_eq_of_waitInv {f : Fcb} (h : f.waitInv) :
    f.tick =
      if f.busy = false then f
      else if f.waitrem.toNat = 1 then { f with waitrem := 0#32, busy := false, cerr := .ok }
      else { f with waitrem := BitVec.ofNat 32 (f.waitrem.toNat - 1) } := by
  split_ifs with hb hw
  · exact tick_idle hb
  · exact tick_last (Bool.eq_true_of_not_eq_false hb) hw
  · have hbusy : f.busy = true := Bool.eq_true_of_not_eq_false hb
    have hne : f.waitrem ≠ 0#32 := h.mp hbusy
    exact tick_running hbusy (by bv_omega)

/-- A client's access leaves NOW as it was (R34). -/
theorem asClient_hostAccess_now {k : Nat} {a : Access} {s t : State} (h : asClient k (hostAccess a) s = .next t) :
    t.now = s.now := by
  obtain ⟨-, u, hu, rfl⟩ := asClient_next h
  obtain ⟨-, -, hnow, -⟩ := hostAccess_cases hu
  rw [(swapClient_keeps k u).1, hnow, (swapClient_keeps k s).1]

/-- Settles O40: every instance takes the tick that advances NOW, and neither an access nor the release of reset writes
NOW. -/
theorem tickAdvancesEveryInstance : Obligations.TickAdvancesEveryInstance := by
  constructor
  · intro s rest hr hinv
    refine ⟨_, step_tick s rest hr, BitVec.toNat_add _ _, rfl, rfl, rfl, hr, rfl, List.length_map _, ?_⟩
    intro p hp
    rcases List.mem_cons.mp hp with rfl | hp
    · exact tick_eq_of_waitInv hinv.1
    · obtain ⟨hmem, heq⟩ := snd_eq_of_mem_zip_map hp
      rw [heq]
      exact tick_eq_of_waitInv (hinv.2 p.1 hmem)
  · intro e s t rest h htick hreset
    cases e with
    | tick => exact absurd rfl htick
    | access k a => exact asClient_hostAccess_now (s := { s with agenda := rest }) h
    | reset asserted =>
      cases asserted with
      | true => exact absurd rfl hreset
      | false => cases h; rfl

/-! ### TG_MARK (R255) -/

/-- Settles O41: TG_MARK writes the stamp SHARED_TS selects; its word is of format N. -/
theorem markRecordsNow : Obligations.MarkRecordsNow := by
  refine ⟨fun s => (execTgMark_eq s).trans ?_, decode_wordN (op := 0x51#8) rfl,
    illegalWhenReserved_of_map (fmt := .n .tgMark) rfl⟩
  by_cases hts : s.fcb.sharedTs = true
  · rw [if_pos hts, if_pos hts, if_pos hts]
  · rw [if_neg hts, if_neg hts, if_neg hts]

/-! ### TG_WAIT (R252, R253) -/

/-- The elapsed time as a number (R252). -/
theorem toNat_elapsed (s : State) :
    s.elapsed.toNat = (s.now.toNat + 4294967296 - s.stamp.toNat) % 4294967296 := by
  rw [State.elapsed]
  bv_omega

/-- The ticks a wait that starts has left are DELAY less the elapsed time, as numbers (R253). -/
theorem toNat_delay_sub_elapsed {s : State} (h : s.elapsed.toNat < s.fcb.delay.toNat) :
    (s.fcb.delay - s.elapsed).toNat = s.fcb.delay.toNat - s.elapsed.toNat :=
  BitVec.toNat_sub_of_le (BitVec.le_def.mpr (Nat.le_of_lt h))

/-- TG_WAIT by the elapsed time (R253). -/
theorem exec_tgWait (s : State) :
    exec .tgWait s = .next
      (if s.elapsed.toNat < s.fcb.delay.toNat then
        { s with fcb := { s.fcb with
            waitrem := BitVec.ofNat 32 (s.fcb.delay.toNat - s.elapsed.toNat), busy := true,
            result := BitVec.ofNat 32 (s.fcb.delay.toNat - s.elapsed.toNat) } }
      else { s with fcb := { s.fcb with waitrem := 0#32, result := 0#32, cerr := .ok } }) := by
  by_cases hlt : s.elapsed.toNat < s.fcb.delay.toNat
  · rw [if_pos hlt, ← eq_ofNat_of_toNat (toNat_delay_sub_elapsed hlt)]
    exact if_pos hlt
  · rw [if_neg hlt]
    exact if_neg hlt

/-- TG_WAIT starts a wait for what is left of DELAY, or leaves none where DELAY has passed (R253). -/
theorem tgWait_cases {s t : State} (h : exec .tgWait s = .next t) :
    (s.elapsed.toNat < s.fcb.delay.toNat ∧ t.fcb.busy = true ∧ t.fcb.waitrem = s.fcb.delay - s.elapsed ∧
      t.now = s.now) ∨
    (s.fcb.delay.toNat ≤ s.elapsed.toNat ∧ t.fcb.busy = s.fcb.busy ∧ t.fcb.waitrem = 0#32 ∧ t.now = s.now) := by
  cases exec_effect h with
  | tgWaiting hlt => exact .inl ⟨hlt, rfl, rfl, rfl⟩
  | tgWaited hle => exact .inr ⟨hle, rfl, rfl, rfl⟩
  | answered _ _ hi => cases hi
  | refused _ _ hi => rcases hi with hi | hi <;> cases hi

/-- A wait that starts ends at the timestamp plus DELAY (R252, R253). -/
theorem now_add_wait (s : State) : s.now + (s.fcb.delay - s.elapsed) = s.stamp + s.fcb.delay := by
  rw [State.elapsed]
  bv_omega

/-- A write of the host of client 0 is answered and changes nothing else, or it is stored (R63, R64, R320). -/
theorem hostWrite_cases {n addr : Nat} {v : Word} {s t : State} (h : hostAccess (.write n addr v) s = .next t) :
    (∃ r, t = s.withReply r) ∨ storeAt (addr - s.cfg.base) v (s.withReply .written) = .next t := by
  simp only [hostAccess, busWrite] at h
  split at h
  · split at h
    · cases h
      exact .inl ⟨_, rfl⟩
    · split at h
      · cases h
        exact .inl ⟨_, rfl⟩
      · exact .inr h
  · cases h

/-- Only a write of CMD can change a wait: no other register is part of it (R64, R254). -/
theorem storeAt_keeps_wait {off : Nat} {v : Word} {s t : State} (hoff : off ≠ 0) (h : storeAt off v s = .next t) :
    t.fcb.waitrem = s.fcb.waitrem ∧ t.fcb.busy = s.fcb.busy := by
  unfold storeAt at h
  split at h
  case h_1 => exact absurd rfl hoff
  all_goals
    cases h
    exact ⟨rfl, rfl⟩

/-- Settles O39: TG_WAIT's two ends, the writes that leave a wait alone, and the ticks of the wait it starts; its word
is of format N. -/
theorem timedWaitRunsExactly : Obligations.TimedWaitRunsExactly := by
  refine ⟨fun s => ?_, fun s t rest n off v hoff h => ?_, fun s t hb h hwait => ?_, decode_wordN (op := 0x50#8) rfl,
    illegalWhenReserved_of_map (fmt := .n .tgWait) rfl⟩
  · have hexec := exec_tgWait s
    rwa [toNat_elapsed] at hexec
  · rw [step_access_zero] at h
    rcases hostWrite_cases h with ⟨r, rfl⟩ | hstore
    · exact ⟨rfl, rfl⟩
    · rw [Nat.add_sub_cancel_left] at hstore
      exact (storeAt_keeps_wait hoff hstore :)
  · rcases tgWait_cases h with ⟨hlt, -, hw, hnow⟩ | ⟨-, hidle, -, -⟩
    · have hended := ticks_ended hwait (hw ▸ toNat_delay_sub_elapsed hlt ▸ Nat.sub_pos_of_lt hlt)
      refine ⟨fun k hk => ?_, by rw [hended], by rw [hended], by rw [hended], ?_⟩
      · rw [ticks_running hwait hk]
        exact ⟨hwait, toNat_remaining _ k⟩
      · rw [ticks_now, BitVec.ofNat_toNat, BitVec.setWidth_eq, hnow, hw]
        exact now_add_wait s
    · exact absurd (hidle.symm.trans hwait) (by simp [hb])

/-! ### A mark and the next wait (R258) -/

/-- After TG_MARK the selected timestamp is NOW, and the wait and DELAY are as before (R251, R255). -/
theorem tgMark_stamps {s t : State} (h : exec .tgMark s = .next t) :
    t.stamp = s.now ∧ t.now = s.now ∧ t.fcb.busy = s.fcb.busy ∧ t.fcb.delay = s.fcb.delay := by
  cases (execTgMark_eq s).symm.trans h
  refine ⟨?_, rfl, rfl, rfl⟩
  by_cases hts : s.fcb.sharedTs = true
  · exact (if_pos hts).trans (if_pos hts)
  · exact (if_neg hts).trans (if_neg hts)

/-- With no wait in progress, the time elapsed since a mark at NOW is the ticks since, below 2^32 (R252). -/
theorem toNat_elapsed_ticks {s : State} {m : Nat} (hb : s.fcb.busy = false) (hstamp : s.stamp = s.now)
    (hm : m < 4294967296) : (ticks m s).elapsed.toNat = m := by
  have hkept : (ticks m s).stamp = s.stamp := by rw [State.stamp, ticks_idle hb, ticks_shcell, State.stamp]
  rw [State.elapsed, hkept, hstamp, ticks_now, add_sub_cancel_left, BitVec.toNat_ofNat]
  exact Nat.mod_eq_of_lt hm

/-- Settles O42: m ticks have elapsed when the TG_WAIT comes, so it waits for the DELAY − m that are left, or m is at
least DELAY. -/
theorem transactionsKeepMinimumDelay : Obligations.TransactionsKeepMinimumDelay := by
  intro s marked waiting m hb hm hmark hwait
  obtain ⟨hstamp, hmarked, hbusy, hdelay⟩ := tgMark_stamps hmark
  have hidle : marked.fcb.busy = false := hbusy.trans hb
  have helapsed := toNat_elapsed_ticks hidle (hstamp.trans hmarked.symm) hm
  have hfcb := ticks_idle hidle m
  have hkept : (ticks m marked).fcb.delay = s.fcb.delay := by rw [hfcb, hdelay]
  rw [BitVec.ofNat_add, ← BitVec.add_assoc, ← hmarked, ← ticks_now, ticks_now waiting.fcb.waitrem.toNat]
  rcases tgWait_cases hwait with ⟨hlt, hrun, hw, hnow⟩ | ⟨hle, hrun, hw, hnow⟩
  · have hleft := toNat_delay_sub_elapsed hlt
    rw [← hw, helapsed, hkept] at hleft
    rw [helapsed, hkept] at hlt
    exact ⟨by rw [ticks_ended hrun (by omega)], by omega, by rw [hnow]⟩
  · rw [helapsed, hkept] at hle
    rw [hfcb, hidle] at hrun
    exact ⟨by rw [ticks_idle hrun, hrun], Nat.le_add_right_of_le hle, by rw [hnow]⟩

end Sys2Proof.Machine
end

section
/-! The exceptions family: the control commands, the dropped command word, the sticky flags' events, the writers of a
frame's outcome, and what no step changes of the platform and of another client's instance. -/

namespace Sys2Proof.Machine

/-! ### The control commands (R286–R288) -/

/-- Settles O7: NOP is its arm of exec; the word of a command is the only word that decodes to it. -/
theorem nopOnlyClearsCerr : Obligations.NopOnlyClearsCerr := by
  have hword : encode .nop = 0#32 := by decide
  refine ⟨fun s => rfl, fun w => ⟨fun h => ?_, fun h => ?_⟩, illegalWhenReserved_of_map (fmt := .n .nop) rfl⟩
  · exact (encodeOfDecodeIsIdentity w .nop h).symm.trans hword
  · rw [h, ← hword]
    exact decodeOfEncodeIsIdentity .nop

/-- Settles O8: SRST is its arm of exec; its word is of format N. -/
theorem softResetKeepsTimeBase : Obligations.SoftResetKeepsTimeBase :=
  ⟨fun _ => rfl, decode_srst_word, illegalWhenReserved_of_map (fmt := .n .srst) rfl⟩

/-- Settles O9: CLRERR is its arm of exec; its word is of format N. -/
theorem clearErrorsClearsStickyFlags : Obligations.ClearErrorsClearsStickyFlags :=
  ⟨fun _ => rfl, decode_wordN (op := 0x02#8) rfl, illegalWhenReserved_of_map (fmt := .n .clrerr) rfl⟩

/-! ### The dropped command word (R293) -/

/-- With reset not asserted, the step that writes a word to CMD is the acceptance of that word (R23). -/
theorem step_pushCommand {s : State} (w : Word) (hr : s.resetLine = false) :
    step (s.pushCommand w) = commandWrite w { s with busReply := .written } :=
  step_write s w s.agenda (off := 0) (by decide) (by decide) hr

/-- Settles O6: acceptance drops every word but SRST's while BUSY = 1. -/
theorem busyDropsAllButSoftReset : Obligations.BusyDropsAllButSoftReset := by
  intro w s hb hr
  constructor
  · intro hw
    rw [step_pushCommand w hr]
    exact if_pos ⟨hb, hw⟩
  · rw [step_pushCommand _ hr, commandWrite, if_neg fun h => h.2 rfl]
    exact commandWord_of_decode _ decode_srst_word

/-! ### The outcome of a frame (R134, R282) -/

/-- Settles O51: of the commands left, only DEC_BYTE and DEC_EOS write the decoder's record, and both leave a finished
frame alone. -/
theorem frameOutcomeHasItsWriters : Obligations.FrameOutcomeHasItsWriters := by
  intro i s t h hstart hsrst
  cases exec_effect h with
  | decStart => exact absurd rfl hstart
  | srst => exact absurd rfl hsrst
  | decByte b =>
    refine ⟨fun hd => ?_, fun hb => absurd rfl (hb b)⟩
    rw [takeByte_ignored _ b (.inr hd)]
    exact ⟨rfl, hd, rfl⟩
  | decEosShort hphase => exact ⟨fun hd => by simp [hd] at hphase, fun _ heos => absurd rfl heos⟩
  | _ => exact ⟨fun hd => ⟨rfl, hd, rfl⟩, fun _ _ => ⟨rfl, rfl, rfl⟩⟩

/-! ### The platform under a step (R295, R320) -/

/-- While reset is asserted an access is answered and changes nothing (R320, log 8). -/
theorem hostAccess_of_resetLine {a : Access} {s t : State} (hr : s.resetLine = true) (h : hostAccess a s = .next t) :
    ∃ r, t = s.withReply r := by
  cases a with
  | read n addr =>
    simp only [hostAccess] at h
    split at h
    · cases h
      exact ⟨_, rfl⟩
    · cases h
  | write n addr v =>
    simp only [hostAccess, busWrite, hr, if_true] at h
    split at h
    · split at h <;> cases h <;> exact ⟨_, rfl⟩
    · cases h

/-- An access of any client keeps the number of clients and, while reset is asserted, the reset values. -/
theorem asClient_hostAccess_keeps_platformInv {k : Nat} {a : Access} {s t : State} (hs : s.platformInv)
    (h : asClient k (hostAccess a) s = .next t) : t.platformInv := by
  obtain ⟨-, u, hu, rfl⟩ := asClient_next h
  obtain ⟨-, hpeers, -, hline, hcfg, -⟩ := hostAccess_cases hu
  obtain ⟨hnow₁, hcell₁, hcfg₁, -, hline₁, -, hlen₁⟩ := swapClient_keeps k s
  obtain ⟨hnow₂, hcell₂, hcfg₂, -, hline₂, -, hlen₂⟩ := swapClient_keeps k u
  obtain ⟨hclients, hreset⟩ := hs
  constructor
  · rw [hlen₂, hpeers, hlen₁, hcfg₂, hcfg, hcfg₁, hclients]
  · intro hasserted
    have hr : s.resetLine = true := by rw [← hline₁, ← hline, ← hline₂, hasserted]
    obtain ⟨r, rfl⟩ := hostAccess_of_resetLine (hline₁.trans hr) hu
    obtain ⟨hall, hnow, hcell⟩ := hreset hr
    have hall₁ : ((s.swapClient k).withReply r).everyFcb (fun f => f = Fcb.reset) := everyFcb_swapClient k hall
    exact ⟨everyFcb_swapClient k hall₁, hnow₂.trans (hnow₁.trans hnow), hcell₂.trans (hcell₁.trans hcell)⟩

/-- Settles O60: a tick under reset changes nothing, an access under reset only its reply, and asserting reset gives the
reset values. -/
theorem stepKeepsPlatform : Obligations.StepKeepsPlatform := by
  intro s t hs h
  refine ⟨?_, step_keeps_cfg h⟩
  obtain ⟨u, hf, hp, hnow, hcell, hline, hcfg, -, hcase⟩ := step_cases h
  have hu : u.platformInv := by
    simp only [State.platformInv, State.everyFcb, hf, hp, hnow, hcell, hline, hcfg]
    exact hs
  rcases hcase with ⟨hr, rfl⟩ | ⟨-, rfl⟩ | ⟨k, a, ha⟩ | rfl | rfl
  · refine ⟨by simpa using hu.1, fun hasserted => ?_⟩
    exact absurd ((hline.trans hr).symm.trans hasserted) Bool.false_ne_true
  · exact hu
  · exact asClient_hostAccess_keeps_platformInv hu ha
  · exact ⟨by simpa using hu.1, fun _ => ⟨⟨rfl, by simp⟩, rfl, rfl⟩⟩
  · exact ⟨hu.1, fun hasserted => absurd hasserted Bool.false_ne_true⟩

/-! ### One client's step and the other clients (R295) -/

/-- Swapping back the client whose place in the peers holds client 0's instance. -/
theorem swapClient_back {j : Nat} {f : Fcb} {peers : List Fcb} {u : State} (hj : j < peers.length)
    (hu : u.peers = peers.set j f) : u.swapClient (j + 1) = { u with fcb := f, peers := peers.set j u.fcb } := by
  have hplace : u.peers[j]? = some f := by rw [hu, List.getElem?_set_self hj]
  rw [swapClient_succ hplace, hu, List.set_set]

/-- An access of client j + 1 is that of client 0's host on the exchanged bus, and the instances put back (logs 14 and
21). -/
theorem step_access_succ {j : Nat} {p : Fcb} {s : State} (a : Access) (rest : List Event) (hp : s.peers[j]? = some p) :
    step { s with agenda := .access (j + 1) a :: rest } =
      match step { s with fcb := p, peers := s.peers.set j s.fcb, agenda := .access 0 a :: rest } with
      | .next t => .next { t with fcb := s.fcb, peers := s.peers.set j t.fcb }
      | .fault e => .fault e
      | .refused e => .refused e := by
  obtain ⟨hj, -⟩ := List.getElem?_eq_some_iff.mp hp
  have hswap : State.swapClient (j + 1) { s with agenda := rest } =
      { s with fcb := p, peers := s.peers.set j s.fcb, agenda := rest } := swapClient_succ hp
  rw [step_access_zero { s with fcb := p, peers := s.peers.set j s.fcb }]
  change asClient (j + 1) (hostAccess a) { s with agenda := rest } = _
  rw [asClient, if_neg (Nat.not_lt.mpr hj), hswap]
  cases hu : hostAccess a { s with fcb := p, peers := s.peers.set j s.fcb, agenda := rest } with
  | next u => exact congrArg Host.Outcome.next (swapClient_back hj (hostAccess_cases hu).2.1)
  | fault e => rfl
  | refused e => rfl

/-- An access of client j + 1 changes at most that client's place among the instances (R295). -/
theorem asClient_succ_instances {j : Nat} {a : Access} {s t : State}
    (h : asClient (j + 1) (hostAccess a) s = .next t) : t.fcb = s.fcb ∧ ∃ g, t.peers = s.peers.set j g := by
  obtain ⟨hj, u, hu, rfl⟩ := asClient_next h
  obtain ⟨-, hpeers, -⟩ := hostAccess_cases hu
  rw [swapClient_succ (List.getElem?_eq_getElem hj)] at hpeers
  rw [swapClient_back hj hpeers]
  exact ⟨rfl, u.fcb, rfl⟩

/-- An access of client k leaves every other instance of the bus (R295). -/
theorem asClient_keeps_others {k j : Nat} {a : Access} {s t : State} (h : asClient k (hostAccess a) s = .next t)
    (hjk : j ≠ k) :
    (t.fcb :: t.peers)[j]? = (s.fcb :: s.peers)[j]? ∧ t.peers.length = s.peers.length := by
  cases k with
  | zero =>
    obtain ⟨-, u, hu, rfl⟩ := asClient_next h
    obtain ⟨-, hpeers, -⟩ := hostAccess_cases hu
    obtain ⟨i, rfl⟩ := Nat.exists_eq_succ_of_ne_zero hjk
    simp only [State.swapClient_zero] at hpeers ⊢
    rw [hpeers]
    exact ⟨rfl, rfl⟩
  | succ m =>
    obtain ⟨hfcb, g, hpeers⟩ := asClient_succ_instances h
    rw [hfcb, hpeers]
    refine ⟨?_, List.length_set⟩
    cases j with
    | zero => rfl
    | succ i => exact List.getElem?_set_ne fun hmi => hjk (congrArg (· + 1) hmi.symm)

/-- Settles O47: an access writes its own client's place alone, and runs on the bus with that instance exchanged. -/
theorem clientsDoNotTouchEachOther : Obligations.ClientsDoNotTouchEachOther := by
  refine ⟨fun k j a s t rest h hjk => ?_, fun j p a s rest hp => step_access_succ a rest hp⟩
  have hclient : asClient k (hostAccess a) { s with agenda := rest } = .next t := h
  obtain ⟨hothers, hlen⟩ := asClient_keeps_others hclient hjk
  exact ⟨hothers, (asClient_hostAccess_now hclient :), hlen⟩

/-! ### The sticky flags (R285) -/

/-- A write of the host is only answered, or is one R62 and R63 allow and is stored (R64). -/
theorem hostWrite_allowed {n addr : Nat} {v : Word} {s t : State} (h : hostAccess (.write n addr v) s = .next t) :
    (∃ r, t = s.withReply r) ∨
    ∃ off, addr = s.cfg.base + off ∧ writeError n off = none ∧ storeAt off v (s.withReply .written) = .next t := by
  simp only [hostAccess, busWrite] at h
  split at h
  case isFalse => cases h
  case isTrue hin =>
    split at h
    case h_1 =>
      cases h
      exact .inl ⟨_, rfl⟩
    case h_2 hok =>
      split at h
      · cases h
        exact .inl ⟨_, rfl⟩
      · exact .inr ⟨_, by omega, hok, h⟩

/-- Only a write of CMD can change a sticky flag: no other writable place is part of one (R28, R29, R64). -/
theorem storeAt_keeps_flags {off : Nat} {v : Word} {s t : State} (hoff : off ≠ 0) (h : storeAt off v s = .next t) :
    t.fcb.cmdDropped = s.fcb.cmdDropped ∧ t.fcb.extraBytes = s.fcb.extraBytes := by
  unfold storeAt at h
  split at h
  case h_1 => exact absurd rfl hoff
  all_goals
    cases h
    exact ⟨rfl, rfl⟩

/-- An access of client 0's host leaves the sticky flags, or it is a word write of CMD, which is accepted (R23). -/
theorem hostAccess_flags_cases {a : Access} {s t : State} (h : hostAccess a s = .next t) :
    (t.fcb.cmdDropped = s.fcb.cmdDropped ∧ t.fcb.extraBytes = s.fcb.extraBytes) ∨
    ∃ w, a = .write 4 s.cfg.base w ∧ commandWrite w (s.withReply .written) = .next t := by
  cases a with
  | read n addr =>
    simp only [hostAccess] at h
    split at h <;> cases h
    exact .inl ⟨rfl, rfl⟩
  | write n addr v =>
    rcases hostWrite_allowed h with ⟨r, rfl⟩ | ⟨off, rfl, hok, hstore⟩
    · exact .inl ⟨rfl, rfl⟩
    · by_cases hoff : off = 0
      · subst hoff
        have hn : n = 4 := by
          have := allowed_of_accessError (allowed_of_writeError hok).1
          omega
        exact .inr ⟨v, by rw [hn]; rfl, hstore⟩
      · exact .inl (storeAt_keeps_flags hoff hstore :)

/-- What the sticky flags of an instance can become when it accepts a command word: kept, both cleared, CMD_DROPPED set by
a dropped word, or EXTRA_BYTES set by a byte outside a decode (R285). -/
inductive FlagsEffect (w : Word) (f g : Fcb) : Prop
  | kept (hd : g.cmdDropped = f.cmdDropped) (hx : g.extraBytes = f.extraBytes)
  | cleared (hw : decode w = .ok .clrerr ∨ decode w = .ok .srst) (hd : g.cmdDropped = false) (hx : g.extraBytes = false)
  | dropped (hb : f.busy = true) (hw : w ≠ 0x01000000#32) (hd : g.cmdDropped = true) (hx : g.extraBytes = f.extraBytes)
  | extra (b : Byte) (hw : w = encode (.decByte b)) (hs : f.dstate = .idle ∨ f.dstate = .done)
      (hd : g.cmdDropped = f.cmdDropped) (hx : g.extraBytes = true)

/-- The sticky flags after an accepted word has run its command, or raised ILLEGAL_COMMAND (R97, R131, R287, R288). -/
theorem commandWord_flagsEffect {w : Word} {s t : State} (h : commandWord w s = .next t) :
    FlagsEffect w s.fcb t.fcb := by
  cases hw : decode w with
  | error e =>
    rw [commandWord_of_decode_error s hw] at h
    cases h
    exact .kept rfl rfl
  | ok i =>
    rw [commandWord_of_decode s hw] at h
    cases exec_effect h with
    | clrerr => exact .cleared (.inl hw) rfl rfl
    | srst => exact .cleared (.inr hw) rfl rfl
    | decByte b =>
      have hd := (takeByte_keeps s.cfg.wireCksumOrder b { s.fcb with cmd := w }).1.cmdDropped
      rcases takeByte_extraBytes_cases s.cfg.wireCksumOrder b { s.fcb with cmd := w } with hx | ⟨hs, hx⟩
      · exact .kept hd hx
      · exact .extra b (encodeOfDecodeIsIdentity w _ hw).symm hs hd hx
    | _ => exact .kept rfl rfl

/-- The sticky flags after a word is written to CMD (R23, R293). -/
theorem commandWrite_flagsEffect {w : Word} {s t : State} (h : commandWrite w s = .next t) :
    FlagsEffect w s.fcb t.fcb := by
  unfold commandWrite at h
  split at h
  case isTrue hdrop =>
    cases h
    exact .dropped hdrop.1 hdrop.2 rfl rfl
  case isFalse => exact commandWord_flagsEffect h

/-- A tick leaves the sticky flags (R250, R254). -/
theorem tick_keeps_flags (f : Fcb) : f.tick.cmdDropped = f.cmdDropped ∧ f.tick.extraBytes = f.extraBytes := by
  obtain ⟨w, b, e, htick⟩ := tick_cases f
  rw [htick]
  exact ⟨rfl, rfl⟩

/-- The sticky flags after any event: kept, both cleared by reset, or written by a word client 0's host writes to CMD. -/
theorem step_flags_cases {e : Event} {s t : State} {rest : List Event}
    (h : step { s with agenda := e :: rest } = .next t) :
    (t.fcb.cmdDropped = s.fcb.cmdDropped ∧ t.fcb.extraBytes = s.fcb.extraBytes) ∨
    (e = .reset true ∧ t.fcb.cmdDropped = false ∧ t.fcb.extraBytes = false) ∨
    ∃ w, e = .access 0 (.write 4 s.cfg.base w) ∧ FlagsEffect w s.fcb t.fcb := by
  cases e with
  | tick =>
    cases h
    refine .inl ?_
    split
    · exact ⟨rfl, rfl⟩
    · exact tick_keeps_flags s.fcb
  | reset asserted =>
    cases asserted with
    | true =>
      cases h
      exact .inr (.inl ⟨rfl, rfl, rfl⟩)
    | false =>
      cases h
      exact .inl ⟨rfl, rfl⟩
  | access k a =>
    cases k with
    | zero =>
      rw [step_access_zero] at h
      rcases hostAccess_flags_cases h with hkept | ⟨w, rfl, hcmd⟩
      · exact .inl hkept
      · exact .inr (.inr ⟨w, rfl, (commandWrite_flagsEffect hcmd :)⟩)
    | succ j =>
      have hclient : asClient (j + 1) (hostAccess a) { s with agenda := rest } = .next t := h
      rw [(asClient_succ_instances hclient).1]
      exact .inl ⟨rfl, rfl⟩

/-- Settles O49: the flags of client 0 over each event, and over each way its host's command word can be taken. -/
theorem stickyFlagsHaveTheirEvents : Obligations.StickyFlagsHaveTheirEvents := by
  intro e s t rest h cleared
  rcases step_flags_cases h with ⟨hd, hx⟩ | ⟨he, hd, hx⟩ | ⟨w, he, heffect⟩
  · simp +contextual [hd, hx]
  · have hc : cleared := .inl he
    simp [hd, hx, hc]
  · cases heffect with
    | kept hd hx => simp +contextual [hd, hx]
    | cleared hw hd hx =>
      have hc : cleared := .inr ⟨w, he, hw⟩
      simp [hd, hx, hc]
    | dropped hb hw hd hx =>
      have hword : ∃ w, w ≠ 0x01000000#32 ∧ e = .access 0 (.write 4 s.cfg.base w) := ⟨w, hw, he⟩
      exact ⟨fun _ _ => ⟨hb, hword⟩, by simp +contextual [hd, hx]⟩
    | extra b hw hs hd hx =>
      have hword : ∃ b : Byte, e = .access 0 (.write 4 s.cfg.base (encode (.decByte b))) := ⟨b, hw ▸ he⟩
      exact ⟨by simp +contextual [hd], fun _ _ => ⟨hs, hword⟩, by simp +contextual [hd, hx]⟩

end Sys2Proof.Machine
end

section
/-! Reset (R320–R322): what the reset input leaves at every instance and on the platform, and that the state it leaves
meets the invariants every step keeps. -/

namespace Sys2Proof.Machine

/-! ### The instances and the platform of a reset bus -/

/-- A property of a reset instance is one of every instance of a bus at reset. -/
theorem everyFcb_resetWith {P : Fcb → Prop} (cfg : Config) (h : P Fcb.reset) : (State.resetWith cfg).everyFcb P := by
  refine ⟨h, fun f hf => ?_⟩
  rw [List.eq_of_mem_replicate hf]
  exact h

/-- A property of a reset instance is one of every instance while reset is asserted. -/
theorem everyFcb_assertReset {P : Fcb → Prop} (s : State) (h : P Fcb.reset) : s.assertReset.everyFcb P := by
  refine ⟨h, fun f hf => ?_⟩
  obtain ⟨_, -, rfl⟩ := List.mem_map.mp hf
  exact h

/-- A bus at reset has as many instances as its configuration has clients, and its reset input is released. -/
theorem platformInv_resetWith {cfg : Config} (h : 1 ≤ cfg.nClients) : (State.resetWith cfg).platformInv := by
  refine ⟨?_, fun hasserted => absurd hasserted Bool.false_ne_true⟩
  change (List.replicate (cfg.nClients - 1) Fcb.reset).length + 1 = cfg.nClients
  rw [List.length_replicate, Nat.sub_add_cancel h]

/-! ### The registers of a reset bus -/

/-- The registers show client 0's instance, NOW and SHCELL, and nothing else of the bus (R22). -/
theorem regRead_congr {s t : State} (off : Nat) (hfcb : s.fcb = t.fcb) (hnow : s.now = t.now)
    (hshcell : s.shcell = t.shcell) : regRead off s = regRead off t := by
  unfold regRead
  rw [hfcb, hnow, hshcell]

/-- The reset values of the fourteen registers of R22: CTRL holds DEST_EN = 1, DELAY is 60, the others are 0 (R320). -/
theorem toNat_regRead_reset :
    ∀ k < 14, (regRead (4 * k) State.reset).toNat = if k = 3 then 2 else if k = 4 then 60 else 0 := by
  decide

/-- Settles O10: the reset input gives every instance and the platform their reset values, and the registers show no
more of a bus than those. -/
theorem resetLeavesResetValues : Obligations.ResetLeavesResetValues := by
  refine ⟨fun s rest => ?_, fun cfg hclients => ?_, fun s hfcb hnow hshcell k hk => ?_, fun _ => rfl, rfl, rfl, rfl⟩
  · exact ⟨_, rfl, everyFcb_assertReset { s with agenda := rest } rfl, List.length_map _, rfl, rfl, rfl, rfl⟩
  · exact ⟨everyFcb_resetWith cfg rfl, platformInv_resetWith hclients, rfl, rfl⟩
  · rw [regRead_congr (t := State.reset) (4 * k) hfcb hnow hshcell]
    exact toNat_regRead_reset k hk

/-! ### The invariants of a reset instance -/

/-- A reset instance holds no received frame (R26, R320). -/
theorem reset_frameInv (o : CksumOrder) : Fcb.reset.frameInv o :=
  fun hok => absurd hok Bool.false_ne_true

/-- A reset instance holds no request frame, and its TXLEN is 0 (R27, R38, R320). -/
theorem reset_txInv (o : CksumOrder) : Fcb.reset.txInv o :=
  ⟨fun _ => rfl, fun hok => absurd hok Bool.false_ne_true⟩

/-- Settles O53: all instances of a bus at reset are alike, and a reset one meets each invariant: its buffers hold no
byte, no wait and no decode is in progress, and it promises no frame. -/
theorem resetMeetsInvariants : Obligations.ResetMeetsInvariants := by
  intro cfg hclients
  have hwait : Fcb.reset.waitInv := by decide
  have hdecode : Fcb.reset.decodeInv := by decide
  refine ⟨everyFcb_resetWith cfg ?_, platformInv_resetWith hclients⟩
  exact ⟨Fcb.reset_mem_wf, fun _ hc => absurd hc List.not_mem_nil, hwait, hdecode, reset_frameInv cfg.wireCksumOrder,
    reset_txInv cfg.wireCksumOrder, rfl, .inl rfl⟩

end Sys2Proof.Machine
end
